-- ==== Sys2Proof/Word.lean ====
section
/-! DEFINITION. The machine word and the pair of words that holds a double-width product. -/

namespace Sys2Proof

/-- `Unsigned32`: every operand, result word and table entry (R8 `XLEN`, R9, R10). -/
abbrev Word := BitVec 32

/-- The reduction of an exact natural number to a word, `n mod 2^32` (R11). -/
def trunc32 (n : Nat) : Word := BitVec.ofNat 32 n

/-- `WideProduct`: the 64-bit product `high * 2^32 + low` as a pair of words (R10, R59). -/
structure WideProduct where
  high : Word
  low : Word
  deriving DecidableEq, Repr

/-- The natural number a WideProduct stands for (R10). -/
def WideProduct.toNat (p : WideProduct) : Nat := p.high.toNat * 2 ^ 32 + p.low.toNat

end Sys2Proof
end

