-- ==== Sys2Proof/Syntax.lean ====
section
/-! DEFINITION. The six operations with their operands, the command and response records, the decoder's verdict. -/

namespace Sys2Proof

/-- One operation with both operand fields of its command (R45). RSQRT and CLZ carry the field `b` too, although
they ignore it, because every value of it is a legal command of its own (R47, R51). -/
inductive Instr where
  /-- `op = 0`, R97: the reciprocal square root of `a`. -/
  | rsqrt (a b : Word)
  /-- `op = 1`, R56: the leading-zero count of `a`. -/
  | clz (a b : Word)
  /-- `op = 2`, R60: the exact product, high and low word. -/
  | mulw (a b : Word)
  /-- `op = 3`, R64: the product modulo `2^32`. -/
  | mul (a b : Word)
  /-- `op = 4`, R72: the quotient of `a` by `b`. -/
  | div (a b : Word)
  /-- `op = 5`, R73: the remainder of `a` by `b`. -/
  | mod (a b : Word)
  deriving DecidableEq, Repr

/-- The command word `cmd = {op, a, b}`, 67 bits (R43). -/
abbrev Command := BitVec 67

/-- The request record (R23). -/
structure Request where
  op : BitVec 3
  a : Word
  b : Word
  deriving DecidableEq, Repr

/-- The response record (R24). -/
structure Response where
  r1 : Word
  r0 : Word
  deriving DecidableEq, Repr

/-- What the decoder says of a command word: one of the six operations, or "reserved" (R51). -/
inductive Verdict where
  | operation (i : Instr)
  | reserved (op : BitVec 3)
  deriving DecidableEq, Repr

/-- The mnemonics of R45 and R52. -/
def Instr.mnemonic : Instr → String
  | .rsqrt _ _ => "RSQRT"
  | .clz _ _ => "CLZ"
  | .mulw _ _ => "MULW"
  | .mul _ _ => "MUL"
  | .div _ _ => "DIV"
  | .mod _ _ => "MOD"

end Sys2Proof
end

