-- ==== Sys2Proof/Config.lean ====
section
/-! DEFINITION. What is fixed for one engine: the contents of its seed table. There are no free values. -/

namespace Sys2Proof

/-- The contents of `seed_table_rom`: `NBUCKET = 32` entries of 32 bits (R8, R21, D8). -/
abbrev SeedTable := Vector Word 32

/-- The configuration of an engine (R8: "A model takes `SEED` as a configuration argument"). `LATENCY(op)` and
`ENGINE_BASE` are read by no rule (R122, R36) and have no field here; see log entries 11 and 13. -/
structure Config where
  /-- `SEED[0..31]`, any contents: no property of them is built in (R21, R80, U11). -/
  seed : SeedTable
  deriving DecidableEq, Repr

end Sys2Proof
end

