-- ==== Sys2Proof/WellFormed.lean ====
section
/-! DEFINITION. What is well formed. Every term of Instr is legal (R50: "every one of the `2^64` operand combinations
is legal"), so the checks are on request records, on the canonical form of a command and on the configuration. -/

namespace Sys2Proof

/-- A request record whose operation code is one of the six (R45, R49). -/
abbrev Request.WellFormed (r : Request) : Prop := r.op.toNat ≤ 5

/-- The canonical form of a command: the operand that RSQRT and CLZ ignore is 0 (R47). Other forms are legal too. -/
def Instr.Canonical : Instr → Bool
  | .rsqrt _ b => b == 0
  | .clz _ b => b == 0
  | .mulw _ _ => true
  | .mul _ _ => true
  | .div _ _ => true
  | .mod _ _ => true

/-- R21 (a): the first entry encodes 1.0. -/
abbrev SeedTable.Anchored (t : SeedTable) : Prop := t[0] = 65536#32

/-- R21 (b): the entries do not increase with the index, read as `>=` (C2). -/
abbrev SeedTable.NonIncreasing (t : SeedTable) : Prop := ∀ i : Fin 31, t[i.val + 1] ≤ t[i.val]

/-- R21 (a) and (b), the "well-formedness conditions on the configuration field" (U11). R21 (c) gives no tolerance,
so it says nothing that can be checked. -/
abbrev Config.WellFormed (c : Config) : Prop := SeedTable.Anchored c.seed ∧ SeedTable.NonIncreasing c.seed

end Sys2Proof
end

