-- ==== Sys2Proof/Decode.lean ====
section
/-! DEFINITION. The command word: its fields, the decoder, total on 67-bit words and rejecting the two reserved codes
by name, and after it the encoder; the response word. -/

namespace Sys2Proof

/-- The fields of a command word (R43). -/
def Request.ofCommand (c : Command) : Request where
  op := c.extractLsb' 64 3
  a := c.extractLsb' 32 32
  b := c.extractLsb' 0 32

/-- The operation a request selects by its code (R45), or "reserved" for codes 6 and 7 (R49). -/
def Request.verdict (r : Request) : Verdict :=
  match r.op.toNat with
  | 0 => .operation (.rsqrt r.a r.b)
  | 1 => .operation (.clz r.a r.b)
  | 2 => .operation (.mulw r.a r.b)
  | 3 => .operation (.mul r.a r.b)
  | 4 => .operation (.div r.a r.b)
  | 5 => .operation (.mod r.a r.b)
  | _ => .reserved r.op

/-- The decoder (R51). -/
def decode (c : Command) : Verdict := (Request.ofCommand c).verdict

/-- The command word of a request, `{op, a, b}` (R43). -/
def Request.command (r : Request) : Command := r.op ++ r.a ++ r.b

/-- The operation code of an operation (R45). -/
def Instr.opcode : Instr → BitVec 3
  | .rsqrt _ _ => 0
  | .clz _ _ => 1
  | .mulw _ _ => 2
  | .mul _ _ => 3
  | .div _ _ => 4
  | .mod _ _ => 5

/-- The request record of an operation (R23, R45, R46: operands as they stand). -/
def Instr.request : Instr → Request
  | .rsqrt a b => ⟨0, a, b⟩
  | .clz a b => ⟨1, a, b⟩
  | .mulw a b => ⟨2, a, b⟩
  | .mul a b => ⟨3, a, b⟩
  | .div a b => ⟨4, a, b⟩
  | .mod a b => ⟨5, a, b⟩

/-- The encoder (R43, R45). -/
def encode (i : Instr) : Command := i.request.command

/-- The response word `{r1, r0}` (R44). -/
def Response.word (r : Response) : BitVec 64 := r.r1 ++ r.r0

/-- A number of the opcode table's bit numbering as a command word: a command has 67 bits, so a number with a bit
set above bit 66 is none (R43; log entry 14). -/
def commandOfNat (nbits w : Nat) : Option Command :=
  if w % 2 ^ nbits < 2 ^ 67 then some (BitVec.ofNat 67 (w % 2 ^ nbits)) else none

/-- The instruction the decoder reads from an instruction whose bits are `w` (the host's question). -/
def decodeTableWord (nbits w : Nat) : Option Instr :=
  match commandOfNat nbits w with
  | none => none
  | some c =>
    match decode c with
    | .operation i => some i
    | .reserved _ => none

/-- The assembler's operand list: one operand for RSQRT and CLZ, two for the others (R52). -/
def Instr.writtenOperands : Instr → List Nat
  | .rsqrt a _ => [a.toNat]
  | .clz a _ => [a.toNat]
  | .mulw a b => [a.toNat, b.toNat]
  | .mul a b => [a.toNat, b.toNat]
  | .div a b => [a.toNat, b.toNat]
  | .mod a b => [a.toNat, b.toNat]

/-- The written form `MNEMONIC a[, b]` with operands as decimal numerals (R52). -/
def Instr.written (i : Instr) : String :=
  i.mnemonic ++ " " ++ ", ".intercalate (i.writtenOperands.map toString)

end Sys2Proof
end

