-- ==== Sys2Proof/Machine/SeedRom.lean ====
section
/-! DEFINITION. `seed_table_rom`: its default contents and its read ports. -/

namespace Sys2Proof.Machine

/-- The default contents, `SEED[e] = floor(2^16 / √(2^e) + 1/2)` (R22, D7). -/
def defaultSeed : SeedTable :=
  #v[65536, 46341, 32768, 23170, 16384, 11585, 8192, 5793,
     4096, 2896, 2048, 1448, 1024, 724, 512, 362,
     256, 181, 128, 91, 64, 45, 32, 23,
     16, 11, 8, 6, 4, 3, 2, 1]

/-- The configuration that holds the default table (R8, R22). -/
def defaultConfig : Config where
  seed := defaultSeed

/-- `RomRead(i)`: the entry at index `i`, for `0 <= i <= 31` and no other (R30, R82). -/
def romRead (t : SeedTable) (i : Fin 32) : Word := t[i]

/-- `SEED_TOP_NEXT`: the successor of the top entry, whatever the table holds (R8, R75, C8). -/
def seedTopNext : Word := 1#32

/-- `seed(e)` (R75). -/
def seed (t : SeedTable) (e : Fin 32) : Word := romRead t e

/-- `seed_next(e)`: the next entry, or the constant for the top bucket, where index 32 is never read (R75, R31). -/
def seedNext (t : SeedTable) (e : Fin 32) : Word :=
  if h : e.val = 31 then seedTopNext else romRead t ⟨e.val + 1, by have := e.isLt; omega⟩

end Sys2Proof.Machine
end

