-- ==== Sys2Proof/Machine/State.lean ====
section
/-! DEFINITION. The state as plain data, why a step can stop, and the state after reset. -/

namespace Sys2Proof.Machine

/-- What a step reads and writes. The engine itself has the unit state (R16): there is no register, program counter,
flag, control register or writable memory (R15, R17, R18, R19, R20, R33). What stands here is its configuration, which
no step writes, and the two sides of its transaction interface (R23, R24, R112, R121; log entries 1, 2 and 3). -/
structure State where
  /-- The seed table, the only storage (R21). -/
  cfg : Config
  /-- The commands presented by the requester and not yet taken, oldest first (R23, R112, R121). -/
  requests : List Command
  /-- The responses returned and not yet taken by the requester, oldest first (R24, R121). -/
  responses : List Response
  deriving DecidableEq, Repr

/-- Nothing faults: "The list of exception causes is empty" (R102), so this type has no constructor (log entry 17). -/
inductive Fault where
  deriving DecidableEq, Repr

/-- Why a step is refused. -/
inductive Refusal where
  /-- Raised by an arm of `exec` for an operation without a meaning; no arm raises it. Safe. -/
  | notModelled (mnemonic : String)
  /-- Raised by `step` when the oldest command has operation code 6 or 7, which select no operation: "a model refuses
  a command with a reserved `op`" (R49, U1; log entry 6). Safe. -/
  | reservedOperation (op : BitVec 3)
  deriving DecidableEq, Repr

/-- After reset: the table holds its contents, no request is pending and no response is pending (R28, R114 to R116).
The contents are the spec's default (R22; log entry 4). -/
def State.reset : State where
  cfg := defaultConfig
  requests := []
  responses := []

end Sys2Proof.Machine
end

