-- ==== Sys2Proof/Machine/Operands.lean ====
section
/-! DEFINITION. The forms of a result. Operands have one form only: the fields `a` and `b` of the command as they
stand (R46), which the decoder hands to the meanings. -/

namespace Sys2Proof.Machine

/-- A single-word result: `r0`, with `r1 = 0` (R24, R48). -/
def singleResult (v : Word) : Response where
  r1 := 0#32
  r0 := v

/-- A WideProduct result: `high` in `r1`, `low` in `r0` (R24, R34, D3). -/
def wideResult (p : WideProduct) : Response where
  r1 := p.high
  r0 := p.low

end Sys2Proof.Machine
end

