-- ==== Sys2Proof/Machine/Ops.lean ====
section
/-! DEFINITION. The named operations over State: taking a request, returning a response, standing idle, refusing a
reserved code, and what the requester can do from outside. There is no operation that takes an exception or returns
from one: "Trap entry. There is none" (R107), "There is no return-from-trap operation" (R108). -/

namespace Sys2Proof.Machine

/-- The engine takes the oldest request; it does not keep it (R23, R121). -/
def takeRequest (s : State) : Option (Command × State) :=
  match s.requests with
  | [] => none
  | c :: rest => some (c, { s with requests := rest })

/-- The engine returns a response: it joins the responses in request order, and nothing else changes (R26, R121). -/
def respond (r : Response) (s : State) : Host.Outcome State Fault Refusal :=
  .next { s with responses := s.responses ++ [r] }

/-- No request is pending: the engine waits, and "produces no response that was not asked for" (R116; log entry 5). -/
def idle (s : State) : Host.Outcome State Fault Refusal := .next s

/-- A reserved operation code has no step (R26, R49; log entry 6). -/
def refuseReserved (op : BitVec 3) : Host.Outcome State Fault Refusal := .refused (.reservedOperation op)

/-- Outside the step: the requester presents a command (R112). -/
def present (c : Command) (s : State) : State := { s with requests := s.requests ++ [c] }

/-- Outside the step: the requester takes the oldest response (R112, R121). -/
def takeResponse (s : State) : Option (Response × State) :=
  match s.responses with
  | [] => none
  | r :: rest => some (r, { s with responses := rest })

/-- Outside the step: the requester asserts reset. What is in flight is dropped without a response, and the table
keeps its contents (R114 to R118; log entry 12). -/
def assertReset (s : State) : State := { s with requests := [], responses := [] }

/-- The queue of requests with one command put where the next step takes it. -/
def placeNext (c : Command) (s : State) : State := { s with requests := c :: s.requests }

end Sys2Proof.Machine
end

