-- ==== Sys2Proof/Machine/Divide.lean ====
section
/-! DEFINITION. `software_divide_32` and the operations DIV and MOD (42_divide.md). -/

namespace Sys2Proof.Machine

/-- `div(a, b)`: the floor of the quotient, 0 for a zero divisor (R67). -/
def div (a b : Word) : Word := if b = 0#32 then 0#32 else trunc32 (a.toNat / b.toNat)

/-- `mod(a, b)`: the remainder, 0 (not `a`) for a zero divisor (R68). -/
def mod (a b : Word) : Word := if b = 0#32 then 0#32 else trunc32 (a.toNat % b.toNat)

/-- DIV (R72). -/
def execDiv (a b : Word) (s : State) : Host.Outcome State Fault Refusal :=
  respond (singleResult (div a b)) s

/-- MOD (R73). -/
def execMod (a b : Word) (s : State) : Host.Outcome State Fault Refusal :=
  respond (singleResult (mod a b)) s

end Sys2Proof.Machine
end

