-- ==== Sys2Proof/Machine/BitScan.lean ====
section
/-! DEFINITION. `lz_count` and the operation CLZ (40_bitscan.md). -/

namespace Sys2Proof.Machine

/-- The consecutive zero bits of `a` from bit `k - 1` downward, before the first 1 bit (R54). -/
def leadingZerosBelow (a : Word) : Nat → Nat
  | 0 => 0
  | k + 1 => if a.getLsbD k then 0 else leadingZerosBelow a k + 1

/-- `clz(a)`, a number in 0..32 (R54); 32 for 0 without a special case (R55). -/
def clz (a : Word) : Nat := leadingZerosBelow a 32

/-- The exponent bucket `e = 31 - clz(x)` (R95). It is used for `x != 0` only (R96), where `clz(x) <= 31`. -/
def bucket (x : Word) : Fin 32 := ⟨31 - clz x, by omega⟩

/-- CLZ (R56); the field `b` is ignored (R47). -/
def execClz (a _b : Word) (s : State) : Host.Outcome State Fault Refusal :=
  respond (singleResult (BitVec.ofNat 32 (clz a))) s

end Sys2Proof.Machine
end

