-- ==== Sys2Proof/Machine/Multiply.lean ====
section
/-! DEFINITION. `wide_multiply_32x32_to_64`, `software_multiply` and the operations MULW and MUL (41_multiply.md). -/

namespace Sys2Proof.Machine

/-- `mulw(a, b)`: the exact product as a WideProduct, `low = trunc32(a * b)`, `high = floor(a * b / 2^32)` (R59). -/
def mulw (a b : Word) : WideProduct where
  high := trunc32 (a.toNat * b.toNat / 2 ^ 32)
  low := trunc32 (a.toNat * b.toNat)

/-- `mul(a, b) = trunc32(a * b)` (R63). -/
def mul (a b : Word) : Word := trunc32 (a.toNat * b.toNat)

/-- MULW (R60). -/
def execMulw (a b : Word) (s : State) : Host.Outcome State Fault Refusal :=
  respond (wideResult (mulw a b)) s

/-- MUL (R64). -/
def execMul (a b : Word) (s : State) : Host.Outcome State Fault Refusal :=
  respond (singleResult (mul a b)) s

end Sys2Proof.Machine
end

