-- ==== Sys2Proof/Machine/Interpolator.lean ====
section
/-! DEFINITION. `linear_interpolator` (43_seed_interpolator.md). Total for every bucket and every word, also where the
engine never uses it (R81, D12; log entry 10). -/

namespace Sys2Proof.Machine

/-- The bits of `x` strictly below bit `e` (R77 `mant`, D9). -/
def mantissa (e : Fin 32) (x : Word) : Word := x &&& BitVec.ofNat 32 (2 ^ e.val - 1)

/-- `frac(e, x)`: those bits shifted into the fixed 16-bit fraction field, truncated on the way right (R77, D9). -/
def frac (e : Fin 32) (x : Word) : BitVec 16 :=
  if e.val < 16 then (mantissa e x <<< (16 - e.val)).extractLsb' 0 16
  else (mantissa e x >>> (e.val - 16)).extractLsb' 0 16

/-- The distance to the successor entry, `y0 -32 y1` (R76 `delta`). -/
def delta (t : SeedTable) (e : Fin 32) : Word := seed t e - seedNext t e

/-- `interp(e, x)`: multiply by `software_multiply` first, then shift right by 16, then subtract, each modulo `2^32`
(R76, D10). -/
def interp (t : SeedTable) (e : Fin 32) (x : Word) : Word :=
  seed t e - mul (delta t e) ((frac e x).setWidth 32) >>> 16

end Sys2Proof.Machine
end

