-- ==== Sys2Proof/Machine/Newton.lean ====
section
/-! DEFINITION. `newton_raphson_refiner` (44_newton_refiner.md): one step `y (3 - x y²) / 2` in integers. The five
numbers are the spec's decision D11 (log entry 8). Total for every pair of words (R93, D12; log entry 10). -/

namespace Sys2Proof.Machine

/-- `THREE_Q16 = 3 * 2^16` (R8, R87). -/
def threeQ16 : Word := 0x00030000#32

/-- `XY2_SHIFT` (R8, R86). -/
def xy2Shift : Nat := 16

/-- `ROUND_BIAS = 2^16`, half of the last divisor (R8, R88). -/
def roundBias : Nat := 0x00010000

/-- `FINAL_SHIFT` (R8, R88). -/
def finalShift : Nat := 17

/-- Step 1, `Y2 = y * y`, exact (R85). -/
def square (y : Word) : Nat := y.toNat * y.toNat

/-- Step 2, `x y²` in Q16, truncated, then modulo `2^32` (R86). -/
def xy2 (y x : Word) : Word := trunc32 (x.toNat * square y / 2 ^ xy2Shift)

/-- Step 3, `3 - x y²` in Q16, modulo `2^32` (R87). -/
def term (y x : Word) : Word := threeQ16 - xy2 y x

/-- Step 4, `P = y * term`, exact (R88). -/
def product (y x : Word) : Nat := y.toNat * (term y x).toNat

/-- Step 4, the half-unit bias and the closing shift: round to nearest, ties upward (R88). -/
def newton (y x : Word) : Word := trunc32 ((product y x + roundBias) / 2 ^ finalShift)

end Sys2Proof.Machine
end

