-- ==== Sys2Proof/Machine/ReciprocalSqrt.lean ====
section
/-! DEFINITION. The top level and the operation RSQRT (45_reciprocal_sqrt.md). -/

namespace Sys2Proof.Machine

/-- `RSQRT_ZERO_RESULT`, the sentinel (R8, R94 case 1). -/
def rsqrtZeroResult : Word := 0xFFFFFFFF#32

/-- `RSQRT_MAX_RESULT`, the floor estimate (R8, R94 case 2). -/
def rsqrtMaxResult : Word := 1#32

/-- The interpolated seed of `x` (R94 case 3, `y`). -/
def seedOf (t : SeedTable) (x : Word) : Word := interp t (bucket x) x

/-- `rsqrt(x)`: the zero test, the all-ones test, the general path, in this order (R94, R96); one iteration (R89). -/
def rsqrt (t : SeedTable) (x : Word) : Word :=
  if x = 0x00000000#32 then rsqrtZeroResult
  else if x = 0xFFFFFFFF#32 then rsqrtMaxResult
  else newton (seedOf t x) x

/-- RSQRT (R97); the field `b` is ignored (R47). -/
def execRsqrt (a _b : Word) (s : State) : Host.Outcome State Fault Refusal :=
  respond (singleResult (rsqrt s.cfg.seed a)) s

end Sys2Proof.Machine
end

