-- ==== Sys2Proof/Machine/Dispatch.lean ====
section
/-! DEFINITION. One arm per operation (R26, R45). -/

namespace Sys2Proof.Machine

def exec (i : Instr) (s : State) : Host.Outcome State Fault Refusal :=
  match i with
  | .rsqrt a b => Sys2Proof.Machine.execRsqrt a b s
  | .clz a b => Sys2Proof.Machine.execClz a b s
  | .mulw a b => Sys2Proof.Machine.execMulw a b s
  | .mul a b => Sys2Proof.Machine.execMul a b s
  | .div a b => Sys2Proof.Machine.execDiv a b s
  | .mod a b => Sys2Proof.Machine.execMod a b s

end Sys2Proof.Machine
end

