-- ==== Sys2Proof/Machine/Step.lean ====
section
/-! DEFINITION. One step: the engine takes the oldest request, decodes it and returns its response. -/

namespace Sys2Proof.Machine

/-- The step of R26: a request is taken and answered in one atomic step; with no request pending the engine waits; a
reserved code has no step (R49). -/
def step (s : State) : Host.Outcome State Fault Refusal :=
  match takeRequest s with
  | none => idle s
  | some (c, rest) =>
    match decode c with
    | .operation i => exec i rest
    | .reserved op => refuseReserved op

/-- The state whose next step runs the command with bits `w`, before anything already presented. A number that is no
command word (a bit set above bit 66) cannot be presented (log entries 7 and 14). -/
def State.withFetchWord (s : State) (nbits w : Nat) : State :=
  match commandOfNat nbits w with
  | none => s
  | some c => placeNext c s

end Sys2Proof.Machine
end

