-- ==== Sys2Proof/Machine/Flags.lean ====
section
/-! DEFINITION. The engine has no flag of any kind (R18). The one thing close to a flag is the carry that a
realisation computes and consumes inside a transaction. -/

namespace Sys2Proof.Machine

/-- The carry out of a 32-bit addition, recovered from the wrapped sum `s` of `x` and another word:
1 when `s < x` (R62 `cmid`, `clow`; R90 `c`). A transient value, not a flag (R18, R25). -/
def carryOfSum (s x : Word) : Word := if s < x then 1#32 else 0#32

end Sys2Proof.Machine
end

