-- ==== Sys2Proof/Machine/Realisations.lean ====
section
/-! DEFINITION. The constructions from 32-bit additions, shifts and comparisons that the spec gives beside the
functions (R13, D20). They are informative: no meaning uses them; the statements compare them with the functions. -/

namespace Sys2Proof.Machine

/-- One stage of the scan of R58 with shift amount `c` on `(n, v)`. -/
def scanStage (c : Nat) (st : Nat × Word) : Nat × Word :=
  if st.2 >>> c = 0#32 then st else (st.1 - c, st.2 >>> c)

/-- `lz_count` by five compare-and-shift stages and a last subtraction (R58). -/
def scanClz (a : Word) : Nat :=
  let st := scanStage 1 (scanStage 2 (scanStage 4 (scanStage 8 (scanStage 16 (32, a)))))
  st.1 - st.2.toNat

/-- The low half of a word, widened again (R62 `a0`, `b0`). -/
def lowHalf (a : Word) : Word := (a.extractLsb' 0 16).setWidth 32

/-- The high half of a word, widened (R62 `a1`, `b1`). -/
def highHalf (a : Word) : Word := (a.extractLsb' 16 16).setWidth 32

/-- `mulw` from four partial products and a 32-bit middle accumulator (R62). -/
def partialProductsMulw (a b : Word) : WideProduct :=
  let p00 := mul (lowHalf a) (lowHalf b)
  let p01 := mul (lowHalf a) (highHalf b)
  let p10 := mul (highHalf a) (lowHalf b)
  let p11 := mul (highHalf a) (highHalf b)
  let mid := p01 + p10
  let cmid := carryOfSum mid p01
  let low := p00 + mid <<< 16
  let clow := carryOfSum low p00
  { high := p11 + mid >>> 16 + cmid <<< 16 + clow, low := low }

/-- `k` iterations of the shift-and-add loop of R65 on `(acc, m, q)`. -/
def shiftAddLoop : Nat → Word × Word × Word → Word × Word × Word
  | 0, st => st
  | k + 1, (acc, m, q) =>
    shiftAddLoop k (if q.getLsbD 0 then acc + m else acc, m <<< 1, q >>> 1)

/-- `mul` by binary long multiplication (R65). -/
def shiftAddMul (a b : Word) : Word := (shiftAddLoop 32 (0#32, a, b)).1

/-- The iteration of the restoring division for dividend bit `i`, on `(quo, rem)` (R70). -/
def restoringStep (a b : Word) (i : Nat) (st : Word × Word) : Word × Word :=
  let rem := st.2 <<< 1 ||| (if a.getLsbD i then 1#32 else 0#32)
  if b ≤ rem then (st.1 ||| 1#32 <<< i, rem - b) else (st.1, rem)

/-- The iterations for the dividend bits `k - 1` down to 0 (R70). -/
def restoringLoop (a b : Word) : Nat → Word × Word → Word × Word
  | 0, st => st
  | k + 1, st => restoringLoop a b k (restoringStep a b k st)

/-- The divider: the zero-divisor guard, then 32 iterations; quotient and remainder (R70). -/
def restoringDivide (a b : Word) : Word × Word :=
  if b = 0#32 then (0#32, 0#32) else restoringLoop a b 32 (0#32, 0#32)

/-- The word-level refiner with three wide multiplications (R90); equal to `newton` for `y <= 65536` only. -/
def wordNewton (y x : Word) : Word :=
  let p1 := mulw y y
  let p2 := mulw x p1.low
  let base := p2.high <<< 16 ||| p2.low >>> 16
  let xy := if p1.high = 0#32 then base else base + x <<< 16
  let p3 := mulw y (0x00030000#32 - xy)
  let s := p3.low + 0x00010000#32
  let h := p3.high + carryOfSum s p3.low
  h <<< 15 ||| s >>> 17

end Sys2Proof.Machine
end

