-- ==== Sys2Proof/Safety.lean ====
section
/-! DEFINITION. The terms in which statements speak of steps: what it is to answer an operation, and what every step
preserves. -/

namespace Sys2Proof.Safety

open Sys2Proof.Machine

/-- `r` is the answer to `i` under the configuration `c`: in every state with that configuration the operation returns
`r` and changes nothing else (R14, R26). That a response joins a list is the model's choice (log entry 2). -/
def Answers (c : Config) (i : Instr) (r : Response) : Prop :=
  ∀ s : State, s.cfg = c → exec i s = .next { s with responses := s.responses ++ [r] }

/-- What a transaction history keeps, for a configuration `c`, a list `old` of responses already returned and a number
`n` of transactions: the table is never written (R33), a response once returned never changes or moves (R121), and
requests become responses one for one (R112, R121). The two lists are the model's choice (log entries 1 and 2), and the
order of responses is the spec's decision D13. -/
structure History (c : Config) (old : List Response) (n : Nat) (s : State) : Prop where
  rom_fixed : s.cfg = c
  keeps_old : old <+: s.responses
  one_for_one : s.requests.length + s.responses.length = n

end Sys2Proof.Safety
end

