-- ==== Sys2Proof/Certificates/Slice0/Obligations.lean ====
section
/-! DEFINITION. The statements for the provers. The spec marks some of its sentences [decision: ...] (its own choice)
or [derived: ...] (its own inference); a statement that rests on one says so and cites no rule for it. Wherever a next
state holds `s.responses ++ [r]`, the spec's "the response is `r`" is written in the model's response list, and that
the table is read from the state is the model's too (log entries 2 and 3). -/

open Sys2Proof Sys2Proof.Machine Sys2Proof.Safety

/-! ### Encoding (30_encoding.md) -/

/-- Decoding what the encoder writes gives the operation back, for each of the six operations with both operand fields
at every value. The bit positions and codes are the spec's decision D4 (log entry 9). -/
def Obligations.DecodeOfEncode : Prop := ∀ i : Instr, decode (encode i) = .operation i

/-- A command word that decodes to an operation is the word the encoder writes for it, so no two words mean the same
operation and no bit of a word is dropped. The layout is decision D4 (log entry 9). -/
def Obligations.EncodeOfDecode : Prop :=
  ∀ (c : Command) (i : Instr), decode c = .operation i → encode i = c

/-- A request record laid out as a command word is read back field by field, and when its code is one of the six it
decodes to the operation with that record. -/
def Obligations.RequestRoundTrip : Prop :=
  ∀ r : Request, Request.ofCommand r.command = r ∧
    (r.WellFormed → ∃ i : Instr, decode r.command = .operation i ∧ i.request = r)

/-- The number of an encoded command is `op * 2^64 + a * 2^32 + b`, with the code the operation map gives each of the
six operations (95_test_vectors.md section 2; decision D4, log entry 9). -/
def Obligations.EncodedWordValue : Prop :=
  ∀ a b : Word,
    (encode (.rsqrt a b)).toNat = 0 * 2 ^ 64 + a.toNat * 2 ^ 32 + b.toNat ∧
    (encode (.clz a b)).toNat = 1 * 2 ^ 64 + a.toNat * 2 ^ 32 + b.toNat ∧
    (encode (.mulw a b)).toNat = 2 * 2 ^ 64 + a.toNat * 2 ^ 32 + b.toNat ∧
    (encode (.mul a b)).toNat = 3 * 2 ^ 64 + a.toNat * 2 ^ 32 + b.toNat ∧
    (encode (.div a b)).toNat = 4 * 2 ^ 64 + a.toNat * 2 ^ 32 + b.toNat ∧
    (encode (.mod a b)).toNat = 5 * 2 ^ 64 + a.toNat * 2 ^ 32 + b.toNat

/-- The decoder's verdict is settled by bits 66 to 64 alone: a code up to 5 gives the operation with that code and the
two operand fields, a code from 6 on gives "reserved" with that code. -/
def Obligations.VerdictFollowsTheCode : Prop :=
  ∀ c : Command,
    ((c.extractLsb' 64 3).toNat ≤ 5 → ∃ i : Instr, decode c = .operation i ∧
      i.request = ⟨c.extractLsb' 64 3, c.extractLsb' 32 32, c.extractLsb' 0 32⟩) ∧
    (6 ≤ (c.extractLsb' 64 3).toNat → decode c = .reserved (c.extractLsb' 64 3))

/-- Command words written out in 95_test_vectors.md section 2 decode as that table says. -/
def Obligations.SampleWordsDecode : Prop :=
  decode 0x0_0000012C_DEADBEEF = .operation (.rsqrt 300 0xDEADBEEF) ∧
  decode 0x1_00010000_FFFFFFFF = .operation (.clz 0x10000 0xFFFFFFFF) ∧
  decode 0x2_12345678_9ABCDEF0 = .operation (.mulw 0x12345678 0x9ABCDEF0) ∧
  decode 0x3_12345678_9ABCDEF0 = .operation (.mul 0x12345678 0x9ABCDEF0) ∧
  decode 0x4_00000064_00000007 = .operation (.div 100 7) ∧
  decode 0x5_00000064_00000007 = .operation (.mod 100 7) ∧
  decode 0x6_00000000_00000000 = .reserved 6 ∧
  decode 0x7_FFFFFFFF_FFFFFFFF = .reserved 7

/-! ### The step -/

/-- When the oldest request decodes to an operation, the step is that operation at the state without the request. That
requests wait in a list is the model's choice (log entry 1). -/
def Obligations.StepRunsTheDecodedRequest : Prop :=
  ∀ (s : State) (c : Command) (rest : List Command) (i : Instr),
    s.requests = c :: rest → decode c = .operation i → step s = exec i { s with requests := rest }

/-- When the oldest request carries code 6 or 7, the step is refused under the name of the reserved code: the model
"refuses a command with a reserved `op`" (the spec's decision D6; log entry 6). The list
of requests is the model's choice (log entry 1). -/
def Obligations.StepRefusesReservedCode : Prop :=
  ∀ (s : State) (c : Command) (rest : List Command), s.requests = c :: rest →
    6 ≤ (c.extractLsb' 64 3).toNat → step s = .refused (.reservedOperation (c.extractLsb' 64 3))

/-- With no request pending the step changes nothing, so no response appears that was not asked for. That the engine
has a step then, one that waits, is the model's choice (log entry 5), and so are the two lists (log entries 1 and 2). -/
def Obligations.StepWithoutRequestWaits : Prop :=
  ∀ s : State, s.requests = [] → step s = .next s

/-- A legal request at the head of the queue gets exactly one response, the operation's answer, behind those already
returned, and leaves the queue. The two lists are the model's choice (log entries 1 and 2), the order of the responses
the spec's decision D13. -/
def Obligations.LegalRequestGetsOneResponse : Prop :=
  ∀ (s : State) (i : Instr) (rest : List Command), s.requests = encode i :: rest →
    ∃ r : Response, Answers s.cfg i r ∧
      step s = .next { s with requests := rest, responses := s.responses ++ [r] }

/-- A run over any finite sequence of legal requests answers each of them, in the order in which they were presented,
in as many steps as there are requests. The order is the spec's decision D13, the two lists are the model's choice (log
entries 1 and 2). -/
def Obligations.RunAnswersInRequestOrder : Prop :=
  ∀ (s : State) (is : List Instr) (rest : List Command), s.requests = is.map encode ++ rest →
    ∃ rs : List Response, List.Forall₂ (Answers s.cfg) is rs ∧
      Sys2Proof.core.run is.length s = .next { s with requests := rest, responses := s.responses ++ rs }

/-- Every step keeps the transaction history: the table is not written, responses already returned stay as they are
and where they are, and a request becomes exactly one response or, with none pending, the step waits. The table's clause
follows the spec, its place in State is log entry 3. The clauses on the responses and on the count are the model's: the
request list (log entry 1), the response list (log entry 2) and the step that waits (log entry 5) are DESIGN CHOICEs,
and that responses keep the order of their requests is the spec's decision D13. -/
def Obligations.StepKeepsHistory : Prop :=
  ∀ (c : Config) (old : List Response) (n : Nat) (s t : State),
    History c old n s → step s = .next t → History c old n t

/-- After reset no request and no response is pending, and the table is admissible: the history starts empty. That
both are lists is the model's choice (log entries 1 and 2), that reset leaves them empty the spec's decision D15 (log
entry 12), that it holds the default table log entry 4. -/
def Obligations.ResetStartsHistory : Prop :=
  History defaultConfig [] 0 State.reset ∧ State.reset.cfg.WellFormed

/-- The table at reset is the default one: each entry is the integer nearest to `2^16 / √(2^e)`, written without the
root, and each is above the next. The default is the spec's decision D7 (log entry 4). -/
def Obligations.ResetTableIsNearestInteger : Prop :=
  ∀ e : Fin 32,
    (2 * (romRead State.reset.cfg.seed e).toNat - 1) ^ 2 * 2 ^ e.val ≤ 2 ^ 34 ∧
    2 ^ 34 < (2 * (romRead State.reset.cfg.seed e).toNat + 1) ^ 2 * 2 ^ e.val ∧
    (∀ h : e.val + 1 < 32, romRead State.reset.cfg.seed ⟨e.val + 1, h⟩ < romRead State.reset.cfg.seed e)

/-- A read of the table gives the entry at the index, and it stays that word for the life of the engine: no step, no
operation and nothing the requester can do changes it. -/
def Obligations.NothingWritesTheRom : Prop :=
  ∀ (s : State) (e : Fin 32),
    romRead s.cfg.seed e = s.cfg.seed[e.val] ∧
    (∀ t, step s = .next t → romRead t.cfg.seed e = romRead s.cfg.seed e) ∧
    (∀ i t, exec i s = .next t → romRead t.cfg.seed e = romRead s.cfg.seed e) ∧
    (∀ c, romRead (present c s).cfg.seed e = romRead s.cfg.seed e) ∧
    (∀ r t, takeResponse s = some (r, t) → romRead t.cfg.seed e = romRead s.cfg.seed e) ∧
    romRead (assertReset s).cfg.seed e = romRead s.cfg.seed e

/-- Reset asserted by the requester empties both lists and keeps the table, so the engine is as after reset: the spec's
decision D15 (log entry 12), over lists and a table in State that are the model's choice (log entries 1, 2 and 3). That
a step then waits is the model's choice too (log entry 5): the spec has no step without a request. -/
def Obligations.AssertedResetKeepsOnlyTheTable : Prop :=
  ∀ s : State, assertReset s = { State.reset with cfg := s.cfg } ∧
    step (assertReset s) = .next (assertReset s)

/-! ### What all six operations have in common -/

/-- Frame of RSQRT, CLZ, MULW, MUL, DIV and MOD: an operation adds one response behind those already returned, and
leaves the table, entry by entry, and the pending requests unchanged. The engine has no register, flag or writable
memory besides. The two lists are the model's choice (log entries 1 and 2). -/
def Obligations.OperationFrame : Prop :=
  ∀ (i : Instr) (s t : State), exec i s = .next t →
    t.cfg = s.cfg ∧ (∀ e : Fin 32, romRead t.cfg.seed e = romRead s.cfg.seed e) ∧
    t.requests = s.requests ∧ ∃ r : Response, t.responses = s.responses ++ [r]

/-- Each of the six operations is a pure, total function of its operands and the table: there is exactly one answer,
the same in every state with that table. -/
def Obligations.OperationsArePureAndTotal : Prop :=
  ∀ (c : Config) (i : Instr), ∃! r : Response, Answers c i r

/-- RSQRT and CLZ answer the same for every value of the field they ignore (the spec's decision D5; log entry 9). -/
def Obligations.UnusedOperandIsIgnored : Prop :=
  ∀ (a b b' : Word) (s : State),
    exec (.rsqrt a b) s = exec (.rsqrt a b') s ∧ exec (.clz a b) s = exec (.clz a b') s

/-- Every operation but MULW answers with `r1 = 0` (the spec's decision D5; log entry 9). -/
def Obligations.OnlyMulwUsesTheHighWord : Prop :=
  ∀ (c : Config) (i : Instr) (r : Response), Answers c i r →
    (∀ a b, i ≠ .mulw a b) → r.r1 = 0

/-- Three inputs that other hardware might trap on get ordinary responses: a zero divisor gives 0 from DIV and MOD,
RSQRT of 0 gives the sentinel, and MUL drops the bits of the product from bit 32 on; nothing else changes. -/
def Obligations.NoTrapOnSpecialInputs : Prop :=
  ∀ (a b : Word) (s : State),
    exec (.div a 0) s = .next { s with responses := s.responses ++ [⟨0, 0⟩] } ∧
    exec (.mod a 0) s = .next { s with responses := s.responses ++ [⟨0, 0⟩] } ∧
    exec (.rsqrt 0 b) s = .next { s with responses := s.responses ++ [⟨0, 0xFFFFFFFF⟩] } ∧
    ∃ r0 : Word, exec (.mul a b) s = .next { s with responses := s.responses ++ [⟨0, r0⟩] } ∧
      r0.toNat = a.toNat * b.toNat % 2 ^ 32

/-! ### CLZ (40_bitscan.md) -/

/-- CLZ answers `31 - k` where `k` is the index of the highest 1 bit, and 32 when there is none. -/
def Obligations.ClzCountsLeadingZeros : Prop :=
  ∀ (a b : Word) (s : State), ∃ r0 : Word,
    exec (.clz a b) s = .next { s with responses := s.responses ++ [⟨0, r0⟩] } ∧
    (a = 0 → r0 = 32) ∧
    ∀ k : Nat, a.getLsbD k = true → (∀ j : Nat, k < j → a.getLsbD j = false) →
      r0.toNat + k = 31

/-- The count is at most 32, is 32 for 0 only, brackets a nonzero word between two powers of two and does not increase
with the word (the spec marks it derived). -/
def Obligations.ClzBounds : Prop :=
  ∀ a : Word, clz a ≤ 32 ∧ (clz a = 32 ↔ a = 0) ∧
    (a ≠ 0 → 2 ^ (31 - clz a) ≤ a.toNat ∧ a.toNat < 2 ^ (32 - clz a)) ∧
    ∀ a' : Word, a ≤ a' → clz a' ≤ clz a

/-- The scan by five compare-and-shift stages gives the leading-zero count of every word, 0 included (the realisation
is the spec's decision D20; log entry 16). -/
def Obligations.ScanRealisesClz : Prop := ∀ a : Word, scanClz a = clz a

/-! ### MULW and MUL (41_multiply.md) -/

/-- MULW answers the exact 64-bit product, high word in `r1`, low word in `r0`. -/
def Obligations.MulwIsTheExactProduct : Prop :=
  ∀ (a b : Word) (s : State), ∃ r1 r0 : Word,
    exec (.mulw a b) s = .next { s with responses := s.responses ++ [⟨r1, r0⟩] } ∧
    r1.toNat * 2 ^ 32 + r0.toNat = a.toNat * b.toNat ∧
    r0.toNat = a.toNat * b.toNat % 2 ^ 32 ∧ r1.toNat = a.toNat * b.toNat / 2 ^ 32

/-- The response word of MULW is the 64-bit product itself (the response layout is decision D4; log entry 9). -/
def Obligations.MulwResponseWordIsTheProduct : Prop :=
  ∀ (c : Config) (a b : Word) (r : Response), Answers c (.mulw a b) r →
    r.word.toNat = a.toNat * b.toNat

/-- Laws of the wide product: symmetry, the operands 0, 1 and a power of two, and the bound on the high word (the spec
marks them derived). -/
def Obligations.MulwLaws : Prop :=
  ∀ a b : Word, mulw a b = mulw b a ∧ mulw a 0 = ⟨0, 0⟩ ∧ mulw a 1 = ⟨0, a⟩ ∧
    (mulw a b).high ≤ 0xFFFFFFFE ∧
    ∀ k : Nat, 1 ≤ k → k ≤ 31 → mulw a (1#32 <<< k) = ⟨a >>> (32 - k), a <<< k⟩

/-- The four partial products and the 32-bit middle accumulator give the exact product of every pair (the realisation
is the spec's decision D20; log entry 16). -/
def Obligations.PartialProductsRealiseMulw : Prop :=
  ∀ a b : Word, partialProductsMulw a b = mulw a b

/-- MUL answers the product modulo `2^32`, with `r1 = 0`. -/
def Obligations.MulIsTheProductModulo : Prop :=
  ∀ (a b : Word) (s : State), ∃ r0 : Word,
    exec (.mul a b) s = .next { s with responses := s.responses ++ [⟨0, r0⟩] } ∧
    r0.toNat = a.toNat * b.toNat % 2 ^ 32

/-- MUL and MULW on the same operands answer the same `r0` (the spec marks it derived). -/
def Obligations.MulIsTheLowWordOfMulw : Prop :=
  ∀ (c : Config) (a b : Word) (r r' : Response),
    Answers c (.mul a b) r → Answers c (.mulw a b) r' → r.r0 = r'.r0

/-- The shift-and-add loop of 32 iterations gives the product modulo `2^32` of every pair (the realisation is the
spec's decision D20; log entry 16). -/
def Obligations.ShiftAddRealisesMul : Prop := ∀ a b : Word, shiftAddMul a b = mul a b

/-! ### DIV and MOD (42_divide.md) -/

/-- DIV answers the floor of the quotient, and 0 for a zero divisor, with `r1 = 0`. -/
def Obligations.DivIsTheFloorQuotient : Prop :=
  ∀ (a b : Word) (s : State), ∃ r0 : Word,
    exec (.div a b) s = .next { s with responses := s.responses ++ [⟨0, r0⟩] } ∧
    (b ≠ 0 → r0.toNat = a.toNat / b.toNat) ∧ (b = 0 → r0 = 0)

/-- MOD answers the remainder, and 0 for a zero divisor (not the dividend), with `r1 = 0`. -/
def Obligations.ModIsTheRemainder : Prop :=
  ∀ (a b : Word) (s : State), ∃ r0 : Word,
    exec (.mod a b) s = .next { s with responses := s.responses ++ [⟨0, r0⟩] } ∧
    (b ≠ 0 → r0.toNat = a.toNat - b.toNat * (a.toNat / b.toNat)) ∧ (b = 0 → r0 = 0)

/-- The answers of DIV and MOD to the same operands satisfy `q * b + m = a` and `m < b` for a nonzero divisor; for a
zero divisor the equation holds for the dividend 0 only (the spec marks it derived). -/
def Obligations.DivModInvariant : Prop :=
  ∀ (c : Config) (a b : Word) (q m : Response),
    Answers c (.div a b) q → Answers c (.mod a b) m →
    (b ≠ 0 → q.r0.toNat * b.toNat + m.r0.toNat = a.toNat ∧ m.r0 < b) ∧
    (b = 0 → (q.r0.toNat * b.toNat + m.r0.toNat = a.toNat ↔ a = 0))

/-- The guard and the 32 iterations of restoring division give quotient and remainder of every pair, the zero divisor
included (the realisation is the spec's decision D20; log entry 16). -/
def Obligations.RestoringLoopRealisesDivision : Prop :=
  ∀ a b : Word, restoringDivide a b = (div a b, mod a b)

/-! ### The sub-blocks of RSQRT (43_seed_interpolator.md, 44_newton_refiner.md) -/

/-- The two table reads of a bucket: its own entry, and the next entry or the constant 1 for the top bucket. -/
def Obligations.SeedLookup : Prop :=
  ∀ (t : SeedTable) (e : Fin 32), seed t e = t[e.val] ∧
    (e.val = 31 → seedNext t e = 1) ∧ (∀ h : e.val + 1 < 32, seedNext t e = t[e.val + 1])

/-- The fraction of a word inside its bucket is its position there as a 16-bit binary fraction; the field needs no
mask; bucket 0 has fraction 0 (properties the spec marks derived, of a function that is its decision D9; log entry 8). -/
def Obligations.FracIsThePositionInTheBucket : Prop :=
  ∀ (e : Fin 32) (x : Word),
    (2 ^ e.val ≤ x.toNat → x.toNat < 2 ^ (e.val + 1) →
      (frac e x).toNat = (x.toNat - 2 ^ e.val) * 2 ^ 16 / 2 ^ e.val) ∧
    (e.val < 16 → frac e x = (x <<< (16 - e.val)).extractLsb' 0 16) ∧
    (16 ≤ e.val → frac e x = (x >>> (e.val - 16)).extractLsb' 0 16) ∧
    frac 0 x = 0

/-- Inside a bucket the fraction does not decrease, increases strictly up to bucket 16, and reaches its largest value
where the spec says (properties the spec marks derived; decision D9, log entry 8). -/
def Obligations.FracOrderAndLargestValue : Prop :=
  ∀ (e : Fin 32) (x x' : Word),
    2 ^ e.val ≤ x.toNat → x < x' → x'.toNat < 2 ^ (e.val + 1) →
    frac e x ≤ frac e x' ∧ (e.val ≤ 16 → frac e x < frac e x') ∧
    (e.val ≤ 16 → (frac e x').toNat ≤ 65536 - 2 ^ (16 - e.val) ∧
      (x'.toNat = 2 ^ (e.val + 1) - 1 → (frac e x').toNat = 65536 - 2 ^ (16 - e.val))) ∧
    (16 ≤ e.val → ((frac e x').toNat = 65535 ↔ 2 ^ (e.val + 1) - 2 ^ (e.val - 16) ≤ x'.toNat))

/-- For an admissible table whose last entry is not 0, the interpolated seed is the entry at fraction 0, lies between
the two entries and above the lower one when they differ, does not increase with the fraction, and is at most 65536
(properties the spec marks derived, of a function that is its decision D10; log entry 8). -/
def Obligations.InterpolatedSeedBounds : Prop :=
  ∀ t : SeedTable, t.Anchored → t.NonIncreasing → 1 ≤ t[31].toNat → ∀ (e : Fin 32) (x : Word),
    (frac e x = 0 → interp t e x = seed t e) ∧
    seedNext t e ≤ interp t e x ∧ interp t e x ≤ seed t e ∧
    (1 ≤ (delta t e).toNat → (seedNext t e).toNat + 1 ≤ (interp t e x).toNat) ∧
    (∀ x' : Word, frac e x ≤ frac e x' → interp t e x' ≤ interp t e x) ∧
    (interp t e x).toNat ≤ 65536

/-- For such a table the interpolator's product does not wrap; with the default table its largest value over all
inputs of RSQRT is 471760896, at `x = 7` (marked derived; decisions D7, D10, log entries 4 and 8). The premise on the
last entry is needed for the top bucket, whose successor is the constant 1. -/
def Obligations.InterpolationProductDoesNotWrap : Prop :=
  (∀ t : SeedTable, t.Anchored → t.NonIncreasing → 1 ≤ t[31].toNat → ∀ (e : Fin 32) (x : Word),
    (delta t e).toNat ≤ 65536 ∧ (delta t e).toNat * (frac e x).toNat < 2 ^ 32 ∧
    (interp t e x).toNat =
      (seed t e).toNat - ((seed t e).toNat - (seedNext t e).toNat) * (frac e x).toNat / 65536) ∧
  (∀ x : Word, x ≠ 0 → x ≠ 0xFFFFFFFF →
    (delta defaultSeed (bucket x)).toNat * (frac (bucket x) x).toNat ≤ 471760896) ∧
  (delta defaultSeed (bucket 7)).toNat * (frac (bucket 7) 7).toNat = 471760896

/-- The refiner in exact arithmetic, for every pair of words: the full square, one truncating shift by 16, the
difference from 3.0 modulo `2^32`, the bias and the closing shift by 17 (the numbers are decision D11, the domain
decision D12; log entries 8 and 10). -/
def Obligations.NewtonStepInExactArithmetic : Prop :=
  ∀ y x : Word,
    (xy2 y x).toNat = x.toNat * (y.toNat * y.toNat) / 2 ^ 16 % 2 ^ 32 ∧
    (term y x).toNat = (2 ^ 32 + 0x00030000 - (xy2 y x).toNat) % 2 ^ 32 ∧
    (newton y x).toNat = (y.toNat * (term y x).toNat + 0x00010000) / 2 ^ 17 % 2 ^ 32

/-- An exact seed is a fixed point of the refiner: whenever `x y²` is 1.0 to 16 fractional bits, in particular at
`x = 4^k`, `y = 2^(16-k)`; and the seed 0 stays 0 (marked derived; decision D11, log entry 8). -/
def Obligations.NewtonFixedPoints : Prop :=
  (∀ y x : Word, xy2 y x = 65536 → term y x = 131072 ∧ newton y x = y) ∧
  (∀ k : Fin 16, 4 ^ k.val * square (trunc32 (2 ^ (16 - k.val))) = 2 ^ 32 ∧
    newton (trunc32 (2 ^ (16 - k.val))) (trunc32 (4 ^ k.val)) = trunc32 (2 ^ (16 - k.val))) ∧
  (∀ x : Word, xy2 0 x = 0 ∧ term 0 x = 0x00030000 ∧ product 0 x = 0 ∧ newton 0 x = 0)

/-- The word-level refiner with three wide multiplications equals the refiner for every seed up to 65536 (the
realisation is the spec's decision D20; log entry 16). -/
def Obligations.WordLevelRefinerRealisesNewton : Prop :=
  ∀ y x : Word, y.toNat ≤ 65536 → wordNewton y x = newton y x

/-- Ranges of the refiner's values with the default table, over every input of the general path, each with an input
that reaches its bound (marked derived; decisions D7 and D11, log entries 4 and 8). -/
def Obligations.DefaultRefinerRanges : Prop :=
  (∀ x : Word, x ≠ 0 → x ≠ 0xFFFFFFFF →
    x.toNat * square (seedOf defaultSeed x) / 2 ^ 16 < 2 ^ 32 ∧
    32768 ≤ (xy2 (seedOf defaultSeed x) x).toNat ∧ (xy2 (seedOf defaultSeed x) x).toNat ≤ 147455 ∧
    49153 ≤ (term (seedOf defaultSeed x) x).toNat ∧ (term (seedOf defaultSeed x) x).toNat ≤ 163840 ∧
    product (seedOf defaultSeed x) x ≤ 2 ^ 33 ∧
    1 ≤ (newton (seedOf defaultSeed x) x).toNat ∧ (newton (seedOf defaultSeed x) x).toNat ≤ 65536) ∧
  xy2 (seedOf defaultSeed 0x80000000) 0x80000000 = 32768 ∧
  xy2 (seedOf defaultSeed 0x3FFFE38F) 0x3FFFE38F = 147455 ∧
  product (seedOf defaultSeed 1) 1 = 2 ^ 33

/-! ### RSQRT (45_reciprocal_sqrt.md) -/

/-- RSQRT answers the sentinel for 0, 1 for all ones, and otherwise the refined interpolated seed of the bucket that
holds the operand; the three cases are those of the contract and the bucket is the position of the highest set bit. -/
def Obligations.RsqrtFollowsItsThreeCases : Prop :=
  ∀ (x b : Word) (s : State), ∃ r0 : Word,
    exec (.rsqrt x b) s = .next { s with responses := s.responses ++ [⟨0, r0⟩] } ∧
    (x = 0 → r0 = 0xFFFFFFFF) ∧ (x = 0xFFFFFFFF → r0 = 1) ∧
    (x ≠ 0 → x ≠ 0xFFFFFFFF → ∃ e : Fin 32, 2 ^ e.val ≤ x.toNat ∧ x.toNat < 2 ^ (e.val + 1) ∧
      e.val = 31 - clz x ∧ r0 = newton (interp s.cfg.seed e x) x)

/-- RSQRT on the general path in natural numbers alone, for every table, admissible or not: fraction, interpolation and
one Newton step with the spec's numbers (decisions D9 to D12; log entries 8, 10 and 15). -/
def Obligations.RsqrtGeneralPathInNumbers : Prop :=
  ∀ (x b : Word) (s : State) (e : Fin 32) (y1 f d y v z : Nat),
    x ≠ 0xFFFFFFFF → 2 ^ e.val ≤ x.toNat → x.toNat < 2 ^ (e.val + 1) →
    y1 = (if h : e.val + 1 < 32 then (s.cfg.seed[e.val + 1]).toNat else 1) →
    f = (x.toNat - 2 ^ e.val) * 2 ^ 16 / 2 ^ e.val →
    d = (2 ^ 32 + (s.cfg.seed[e.val]).toNat - y1) % 2 ^ 32 →
    y = (2 ^ 32 + (s.cfg.seed[e.val]).toNat - d * f % 2 ^ 32 / 2 ^ 16) % 2 ^ 32 →
    v = x.toNat * (y * y) / 2 ^ 16 % 2 ^ 32 →
    z = (2 ^ 32 + 0x00030000 - v) % 2 ^ 32 →
    exec (.rsqrt x b) s = .next { s with
      responses := s.responses ++ [⟨0, BitVec.ofNat 32 ((y * z + 0x00010000) / 2 ^ 17)⟩] }

/-- RSQRT of a nonzero word reads its bucket's entry and the next one only: two tables that agree there give the same
answer (the spec's rule on who reads the table, part of it decision D5; log entry 9). -/
def Obligations.RsqrtReadsOnlyItsBucket : Prop :=
  ∀ (c c' : Config) (x b : Word) (e : Fin 32) (r : Response),
    2 ^ e.val ≤ x.toNat → x.toNat < 2 ^ (e.val + 1) → c.seed[e.val] = c'.seed[e.val] →
    (∀ h : e.val + 1 < 32, c.seed[e.val + 1] = c'.seed[e.val + 1]) →
    Answers c (.rsqrt x b) r → Answers c' (.rsqrt x b) r

/-- CLZ, MULW, MUL, DIV and MOD, and RSQRT of 0 and of all ones, do not read the table: their answer is the same under
every configuration. -/
def Obligations.OtherOperationsReadNoTable : Prop :=
  ∀ (c c' : Config) (a b : Word) (i : Instr) (r : Response),
    i ∈ [.clz a b, .mulw a b, .mul a b, .div a b, .mod a b, .rsqrt 0 b, .rsqrt 0xFFFFFFFF b] →
    Answers c i r → Answers c' i r

/-- With the default table the answer of RSQRT to 0 is the sentinel, every other answer lies in 1 to 65536, and it is
65536 for the operand 1 only (marked derived; decisions D7 and D11, log entries 4 and 8). -/
def Obligations.DefaultResultRange : Prop :=
  ∀ (x b : Word) (s : State), s.cfg = defaultConfig → ∃ r0 : Word,
    exec (.rsqrt x b) s = .next { s with responses := s.responses ++ [⟨0, r0⟩] } ∧
    (x = 0 → r0 = 0xFFFFFFFF) ∧
    (x ≠ 0 → 1 ≤ r0.toNat ∧ r0.toNat ≤ 65536 ∧ (r0 = 65536 ↔ x = 1))

/-- With the default table RSQRT of `2^k` is the entry of bucket `k`, but 23171 for `k = 3`, and RSQRT of `4^j` is
`2^(16-j)` (marked derived; decisions D7 and D11, log entries 4 and 8). -/
def Obligations.DefaultPowersOfTwo : Prop :=
  (∀ k : Fin 32, rsqrt defaultSeed (1#32 <<< k.val) = if k.val = 3 then 23171 else defaultSeed[k]) ∧
  (∀ j : Fin 16, rsqrt defaultSeed (trunc32 (4 ^ j.val)) = trunc32 (2 ^ (16 - j.val)))

/-- With the default table RSQRT is 1 on the whole top bucket, where the bucket is 31 and the seed 1; the general path
would give 1 for all ones too (marked derived; decisions D7 and D11, log entries 4 and 8). -/
def Obligations.DefaultTopBucket : Prop :=
  (∀ x : Word, 0x80000000 ≤ x → x ≤ 0xFFFFFFFE →
    bucket x = 31 ∧ seedOf defaultSeed x = 1 ∧ (xy2 1 x).toNat = x.toNat / 2 ^ 16 ∧
    131073 ≤ (term 1 x).toNat ∧ (term 1 x).toNat ≤ 163840 ∧ rsqrt defaultSeed x = 1) ∧
  newton 1 0xFFFFFFFF = 1

/-- With the default table RSQRT is not monotone: the result rises by one at 5353 and at `0x40000000` (marked derived;
decisions D7 and D11, log entries 4 and 8). -/
def Obligations.DefaultResultIsNotMonotone : Prop :=
  rsqrt defaultSeed 5352 = 893 ∧ rsqrt defaultSeed 5353 = 894 ∧
  rsqrt defaultSeed 0x3FFFFFFF = 1 ∧ rsqrt defaultSeed 0x40000000 = 2
end

