-- ==== Sys2Proof/Laws/Encoding.lean ====
section
/-! SUPPORT. The bits of a command word and of a response word, one lemma each. -/

namespace Sys2Proof

/-- Bit `k` of `{op, a, b}`. -/
theorem Request.command_getLsbD (r : Request) (k : Nat) : r.command.getLsbD k =
    if k < 32 then r.b.getLsbD k else if k < 64 then r.a.getLsbD (k - 32) else r.op.getLsbD (k - 64) := by
  show (r.op ++ r.a ++ r.b : BitVec (3 + 32 + 32)).getLsbD k = _
  rw [BitVec.getLsbD_append, BitVec.getLsbD_append]
  have h : k - 32 < 32 ↔ k < 64 := by omega
  simp only [h, Nat.sub_sub, Nat.reduceAdd]

/-- Bit `k` of `{r1, r0}`. -/
theorem Response.word_getLsbD (r : Response) (k : Nat) : r.word.getLsbD k =
    if k < 32 then r.r0.getLsbD k else r.r1.getLsbD (k - 32) := by
  show (r.r1 ++ r.r0 : BitVec (32 + 32)).getLsbD k = _
  rw [BitVec.getLsbD_append]

end Sys2Proof
end

