-- ==== Sys2Proof/Laws/Functions.lean ====
section
/-! SUPPORT. The component functions read as natural numbers: one lemma per function. -/

namespace Sys2Proof.Machine

@[simp] theorem trunc32_toNat (n : Nat) : (trunc32 n).toNat = n % 2 ^ 32 := BitVec.toNat_ofNat n 32

/-- The exact product of two words fits 64 bits. -/
theorem word_mul_lt (a b : Word) : a.toNat * b.toNat < 2 ^ 64 :=
  calc a.toNat * b.toNat < 2 ^ 32 * 2 ^ 32 := Nat.mul_lt_mul'' a.isLt b.isLt
    _ = 2 ^ 64 := by norm_num

theorem mulw_high_toNat (a b : Word) : (mulw a b).high.toNat = a.toNat * b.toNat / 2 ^ 32 := by
  have h := word_mul_lt a b
  simp only [mulw, trunc32_toNat]
  omega

theorem mulw_low_toNat (a b : Word) : (mulw a b).low.toNat = a.toNat * b.toNat % 2 ^ 32 := trunc32_toNat _

theorem mul_toNat (a b : Word) : (mul a b).toNat = a.toNat * b.toNat % 2 ^ 32 := trunc32_toNat _

theorem carryOfSum_toNat (s x : Word) : (carryOfSum s x).toNat = if s.toNat < x.toNat then 1 else 0 := by
  by_cases h : s < x
  · rw [carryOfSum, if_pos h, if_pos (BitVec.lt_def.mp h)]; rfl
  · rw [carryOfSum, if_neg h, if_neg (fun hlt => h (BitVec.lt_def.mpr hlt))]; rfl

theorem leadingZerosBelow_le (a : Word) (k : Nat) : leadingZerosBelow a k ≤ k := by
  induction k with
  | zero => exact Nat.le_refl 0
  | succ k ih => simp only [leadingZerosBelow]; split <;> omega

/-- A 1 at bit `k` with none above it, up to bit `k + d`, leaves `d` leading zeros below bit `k + 1 + d`. -/
theorem leadingZerosBelow_of_top (a : Word) (k d : Nat) (hk : a.getLsbD k = true)
    (hz : ∀ j, k < j → a.getLsbD j = false) : leadingZerosBelow a (k + 1 + d) = d := by
  induction d with
  | zero => simp [leadingZerosBelow, hk]
  | succ d ih =>
    have hj : a.getLsbD (k + 1 + d) = false := hz _ (by omega)
    rw [← Nat.add_assoc, leadingZerosBelow, hj, ih]
    rfl

theorem seedNext_of_lt (t : SeedTable) (e : Fin 32) (h : e.val + 1 < 32) :
    seedNext t e = romRead t ⟨e.val + 1, h⟩ := by
  have hne : e.val ≠ 31 := by omega
  simp [seedNext, hne]

theorem seedNext_top (t : SeedTable) (e : Fin 32) (h : e.val = 31) : seedNext t e = 1#32 := by
  simp [seedNext, h, seedTopNext]

end Sys2Proof.Machine
end

