-- ==== Sys2Proof/Laws/State.lean ====
section
/-! SUPPORT. What each field of State is after each operation over it. -/

namespace Sys2Proof.Machine

@[simp] theorem reset_cfg : State.reset.cfg = defaultConfig := rfl
@[simp] theorem reset_requests : State.reset.requests = [] := rfl
@[simp] theorem reset_responses : State.reset.responses = [] := rfl

@[simp] theorem present_cfg (c : Command) (s : State) : (present c s).cfg = s.cfg := rfl
@[simp] theorem present_requests (c : Command) (s : State) : (present c s).requests = s.requests ++ [c] := rfl
@[simp] theorem present_responses (c : Command) (s : State) : (present c s).responses = s.responses := rfl

@[simp] theorem placeNext_cfg (c : Command) (s : State) : (placeNext c s).cfg = s.cfg := rfl
@[simp] theorem placeNext_requests (c : Command) (s : State) : (placeNext c s).requests = c :: s.requests := rfl
@[simp] theorem placeNext_responses (c : Command) (s : State) : (placeNext c s).responses = s.responses := rfl

@[simp] theorem assertReset_cfg (s : State) : (assertReset s).cfg = s.cfg := rfl
@[simp] theorem assertReset_requests (s : State) : (assertReset s).requests = [] := rfl
@[simp] theorem assertReset_responses (s : State) : (assertReset s).responses = [] := rfl

end Sys2Proof.Machine
end

