-- ==== Sys2Proof/Laws/Ops.lean ====
section
/-! SUPPORT. What the shared operations, an operation's meaning and a step can do, each said once. -/

namespace Sys2Proof.Machine

/-- `respond` always answers a next state, and it is this one. -/
theorem respond_eq_next_iff (r : Response) (s t : State) :
    respond r s = .next t ↔ t = { s with responses := s.responses ++ [r] } := by
  simp [respond, eq_comm]

theorem takeRequest_of_nil {s : State} (h : s.requests = []) : takeRequest s = none := by
  simp [takeRequest, h]

theorem takeRequest_of_cons {s : State} {c : Command} {rest : List Command} (h : s.requests = c :: rest) :
    takeRequest s = some (c, { s with requests := rest }) := by
  simp [takeRequest, h]

theorem takeResponse_of_cons {s : State} {r : Response} {rest : List Response} (h : s.responses = r :: rest) :
    takeResponse s = some (r, { s with responses := rest }) := by
  simp [takeResponse, h]

/-- Every meaning ends in `respond`, with an answer that is read off the operands and the configuration. -/
theorem exec_responds (c : Config) (i : Instr) : ∃ r, ∀ s : State, s.cfg = c → exec i s = respond r s := by
  cases i with
  | rsqrt a b => exact ⟨singleResult (rsqrt c.seed a), by rintro s rfl; rfl⟩
  | clz a b => exact ⟨_, fun _ _ => rfl⟩
  | mulw a b => exact ⟨_, fun _ _ => rfl⟩
  | mul a b => exact ⟨_, fun _ _ => rfl⟩
  | div a b => exact ⟨_, fun _ _ => rfl⟩
  | mod a b => exact ⟨_, fun _ _ => rfl⟩

/-- Inversion of the step: it waited, or it took the oldest request, which decodes to an operation, and answered it. -/
theorem step_cases {s t : State} (h : step s = .next t) :
    (s.requests = [] ∧ t = s) ∨
    ∃ c rest i r, s.requests = c :: rest ∧ decode c = .operation i ∧
      exec i { s with requests := rest } = respond r { s with requests := rest } ∧
      t = { s with requests := rest, responses := s.responses ++ [r] } := by
  cases hq : s.requests with
  | nil =>
    simp only [step, takeRequest_of_nil hq, idle, Host.Outcome.next.injEq] at h
    exact .inl ⟨rfl, h.symm⟩
  | cons c rest =>
    simp only [step, takeRequest_of_cons hq] at h
    cases hd : decode c with
    | reserved op => simp [hd, refuseReserved] at h
    | operation i =>
      obtain ⟨r, hr⟩ := exec_responds s.cfg i
      have he := hr { s with requests := rest } rfl
      simp only [hd, he, respond_eq_next_iff] at h
      exact .inr ⟨c, rest, i, r, rfl, hd, he, h⟩

end Sys2Proof.Machine
end

