-- ==== Sys2Proof/Laws/PerInstr.lean ====
section
/-! SUPPORT. A statement for all operations, one lemma per constructor: the command word of an operation carries its
code in bits 66 to 64, one of the six of R45. -/

namespace Sys2Proof.Laws.CodeField

/-- The encoded word and the request record carry the operation's code, and the request record is well formed. -/
def Statement (i : Instr) : Prop :=
  (encode i).extractLsb' 64 3 = i.opcode ∧ i.request.op = i.opcode ∧ i.request.WellFormed

/-- Bits 66 to 64 of a laid-out request are its code. -/
theorem command_code (r : Request) : r.command.extractLsb' 64 3 = r.op := by
  ext k hk
  rw [BitVec.getElem_extractLsb', Request.command_getLsbD, if_neg (by omega), if_neg (by omega),
    Nat.add_sub_cancel_left, BitVec.getLsbD_eq_getElem hk]

theorem rsqrt (a b : Word) : Statement (.rsqrt a b) :=
  ⟨command_code _, rfl, show (BitVec.toNat 0#3) ≤ 5 by decide⟩
theorem clz (a b : Word) : Statement (.clz a b) :=
  ⟨command_code _, rfl, show (BitVec.toNat 1#3) ≤ 5 by decide⟩
theorem mulw (a b : Word) : Statement (.mulw a b) :=
  ⟨command_code _, rfl, show (BitVec.toNat 2#3) ≤ 5 by decide⟩
theorem mul (a b : Word) : Statement (.mul a b) :=
  ⟨command_code _, rfl, show (BitVec.toNat 3#3) ≤ 5 by decide⟩
theorem div (a b : Word) : Statement (.div a b) :=
  ⟨command_code _, rfl, show (BitVec.toNat 4#3) ≤ 5 by decide⟩
theorem mod (a b : Word) : Statement (.mod a b) :=
  ⟨command_code _, rfl, show (BitVec.toNat 5#3) ≤ 5 by decide⟩

end Sys2Proof.Laws.CodeField
end

