-- ==== Sys2Proof/Tests/Slice0.lean ====
section
/-! SUPPORT. Tests with expected values from spec/95_test_vectors.md (section named at each), smoke tests of the checks,
and for each statement with hypotheses a case that meets them. -/

namespace Sys2Proof.Tests

open Sys2Proof Sys2Proof.Machine Sys2Proof.Safety

/-- The engine with one command presented after reset. -/
def presented (c : Command) : State := present c State.reset

/-- The response word to one command presented after reset. -/
def answerTo (c : Command) : Option (BitVec 64) :=
  match step (presented c) with
  | .next t => t.responses.head?.map Response.word
  | .fault _ => none
  | .refused _ => none

/-! ### The checks refuse ill-formed terms -/

theorem test_request_code_5_is_well_formed : Request.WellFormed ⟨5, 0xFFFFFFFF, 0⟩ := by decide
theorem test_request_code_6_is_refused : ¬ Request.WellFormed ⟨6, 0, 0⟩ := by decide
theorem test_request_code_7_is_refused : ¬ Request.WellFormed ⟨7, 0, 0⟩ := by decide
theorem test_noncanonical_rsqrt : Instr.Canonical (.rsqrt 300 1) = false := by decide
theorem test_noncanonical_clz : Instr.Canonical (.clz 300 1) = false := by decide
theorem test_default_table_is_well_formed : defaultConfig.WellFormed := by decide
theorem test_table_not_anchored : ¬ SeedTable.Anchored (defaultSeed.set 0 65535) := by decide
theorem test_table_increasing : ¬ SeedTable.NonIncreasing (defaultSeed.set 31 3) := by decide

/-! ### Words written out from 30_encoding.md R43 and R45, as 95 section 2 has them -/

theorem test_word_rsqrt : decode 0x0_0000012C_DEADBEEF = .operation (.rsqrt 300 0xDEADBEEF) := by decide
theorem test_word_clz : decode 0x1_00010000_FFFFFFFF = .operation (.clz 0x10000 0xFFFFFFFF) := by decide
theorem test_word_mulw : decode 0x2_12345678_9ABCDEF0 = .operation (.mulw 0x12345678 0x9ABCDEF0) := by decide
theorem test_word_mul : decode 0x3_12345678_9ABCDEF0 = .operation (.mul 0x12345678 0x9ABCDEF0) := by decide
theorem test_word_div : decode 0x4_00000064_00000007 = .operation (.div 100 7) := by decide
theorem test_word_mod : decode 0x5_FFFFFFFF_00000000 = .operation (.mod 0xFFFFFFFF 0) := by decide
theorem test_word_reserved_6 : decode 0x6_00000000_00000000 = .reserved 6 := by decide
theorem test_word_reserved_7 : decode 0x7_FFFFFFFF_FFFFFFFF = .reserved 7 := by decide
theorem test_word_in_bits :
    decode 0b100_00000000000000000000000001100100_00000000000000000000000000000111 = .operation (.div 100 7) := by decide
theorem test_table_word : decodeTableWord 72 0x5_00000064_00000007 = some (.mod 100 7) := by decide
theorem test_table_word_too_long : decodeTableWord 72 0x8_00000064_00000007 = none := by decide
theorem test_fetch_word_runs :
    step (State.reset.withFetchWord 72 0x4_00000064_00000007) = exec (.div 100 7) State.reset := by rfl

/-- 30_encoding.md R52: the written form `DIV 100, 7`, and one operand for CLZ. -/
theorem test_written_form : (Instr.div 100 7).written = "DIV 100, 7" ∧ (Instr.clz 300 0).written = "CLZ 300" := by decide

/-! ### One transaction (sections 3.1 to 3.6 and program P6) -/

theorem test_rsqrt_300 : answerTo 0x0_0000012C_DEADBEEF = some 0x00000000_00000EC3 := by decide
theorem test_rsqrt_zero : answerTo 0x0_00000000_00000000 = some 0x00000000_FFFFFFFF := by decide
theorem test_clz_300 : answerTo 0x1_0000012C_00000000 = some 0x00000000_00000017 := by decide
theorem test_clz_zero : answerTo 0x1_00000000_00000000 = some 0x00000000_00000020 := by decide
theorem test_mulw_sample : answerTo 0x2_12345678_9ABCDEF0 = some 0x0B00EA4E_242D2080 := by decide
theorem test_mulw_largest : answerTo 0x2_FFFFFFFF_FFFFFFFF = some 0xFFFFFFFE_00000001 := by decide
theorem test_mul_sample : answerTo 0x3_12345678_9ABCDEF0 = some 0x00000000_242D2080 := by decide
theorem test_mul_wraps : answerTo 0x3_FFFFFFFF_FFFFFFFF = some 0x00000000_00000001 := by decide
theorem test_div_sample : answerTo 0x4_DEADBEEF_0000CAFE = some 0x00000000_000118D3 := by decide
theorem test_div_by_zero : answerTo 0x4_FFFFFFFF_00000000 = some 0x00000000_00000000 := by decide
theorem test_mod_sample : answerTo 0x5_DEADBEEF_0000CAFE = some 0x00000000_00009F95 := by decide
theorem test_mod_by_zero : answerTo 0x5_FFFFFFFF_00000000 = some 0x00000000_00000000 := by decide
/-- Program P4: a reserved code is refused. -/
theorem test_reserved_is_refused : answerTo 0x6_0000012C_00000000 = none := by decide

/-! ### The sub-blocks (sections 3.4 to 3.6) -/

theorem test_seed_next_top : seedNext defaultSeed 31 = 1 ∧ seedNext defaultSeed 0 = 46341 := by decide
theorem test_frac_samples : frac 8 0x12C = 0x2C00 ∧ frac 17 0x20001 = 0 ∧ frac 20 0x123456 = 0x2345 ∧
    frac 15 0xFFFF = 0xFFFE := by decide
theorem test_interp_samples : interp defaultSeed 2 7 = 25570 ∧ interp defaultSeed 8 300 = 3890 ∧
    interp defaultSeed 16 0x1FFFF = 182 ∧ interp defaultSeed 8 0xFFFFFFFF = 2901 := by decide
theorem test_newton_tie : newton 3 0x38E3AAAA = 2 ∧ newton 3 0x38E3AAAB = 1 ∧ newton 3890 300 = 3779 := by decide
theorem test_newton_outside : newton 65536 4 = 0x7FFF8000 ∧ newton 65536 0xFFFFFFFF = 0x00020000 ∧
    newton 131072 1 = 0xFFFF0000 ∧ newton 0xFFFFFFFF 0xFFFFFFFF = 32768 := by decide
theorem test_rsqrt_top_map : rsqrt defaultSeed 0x1C000FFF = 3 ∧ rsqrt defaultSeed 0x1C001000 = 2 ∧
    rsqrt defaultSeed 0x60003FFF = 2 ∧ rsqrt defaultSeed 0x60004000 = 1 := by decide
/-- The intermediate values of section 3.2 for a product with every carry. -/
theorem test_partial_products : partialProductsMulw 0xFFFFFFFF 0xFFFFFFFF = ⟨0xFFFFFFFE, 1⟩ ∧
    partialProductsMulw 0xFFFF0000 0x0000FFFF = ⟨0x0000FFFE, 0x00010000⟩ := by decide
theorem test_scan : scanClz 0 = 32 ∧ scanClz 1 = 31 ∧ scanClz 0x12C = 23 := by decide
theorem test_shift_add : shiftAddMul 0xDEADBEEF 0xCAFEBABE = 0x88CF5B62 := by decide
theorem test_restoring : restoringDivide 0xFFFFFFFF 0x80000001 = (1, 0x7FFFFFFE) := by decide +kernel
theorem test_word_newton : wordNewton 65536 1 = 65536 ∧ wordNewton 3890 300 = 3779 := by decide

/-! ### Hypotheses that can be met -/

/-- Two requests waiting behind one response. -/
def busy : State := { State.reset with
  requests := [encode (.mul 3 5), encode (.div 7 0)], responses := [⟨0, 1⟩] }

theorem answers_mul : Answers defaultConfig (.mul 3 5) ⟨0, 15⟩ := fun _ _ => rfl
theorem answers_mulw : Answers defaultConfig (.mulw 3 5) ⟨0, 15⟩ := fun _ _ => rfl
theorem answers_div : Answers defaultConfig (.div 100 7) ⟨0, 14⟩ := fun _ _ => rfl
theorem answers_mod : Answers defaultConfig (.mod 100 7) ⟨0, 2⟩ := fun _ _ => rfl
theorem answers_div_zero : Answers defaultConfig (.div 5 0) ⟨0, 0⟩ := fun _ _ => rfl
theorem answers_mod_zero : Answers defaultConfig (.mod 5 0) ⟨0, 0⟩ := fun _ _ => rfl
theorem answers_rsqrt_of (c : Config) (h : rsqrt c.seed 5 = 29250) : Answers c (.rsqrt 5 0) ⟨0, 29250⟩ := by
  rintro s rfl
  exact congrArg (fun v => respond (singleResult v) s) h
theorem answers_rsqrt : Answers defaultConfig (.rsqrt 5 0) ⟨0, 29250⟩ := answers_rsqrt_of _ (by decide)

/-- EncodeOfDecode. -/
theorem test_hyp_encode_of_decode : decode 0x5_00000064_00000007 = .operation (.mod 100 7) := by decide
/-- RequestRoundTrip, at the largest legal code. -/
theorem test_hyp_request_round_trip : Request.WellFormed ⟨5, 100, 7⟩ := by decide
/-- VerdictFollowsTheCode, both clauses at the codes where they meet. -/
theorem test_hyp_verdict_follows_code :
    ((0x5_FFFFFFFF_00000000 : Command).extractLsb' 64 3).toNat ≤ 5 ∧
    6 ≤ ((0x6_00000000_00000000 : Command).extractLsb' 64 3).toNat := by decide
/-- StepRunsTheDecodedRequest. -/
theorem test_hyp_step_runs : busy.requests = encode (.mul 3 5) :: [encode (.div 7 0)] ∧
    decode (encode (.mul 3 5)) = .operation (.mul 3 5) := by decide
/-- StepRefusesReservedCode. -/
theorem test_hyp_step_refuses : (presented 0x6_0000012C_00000000).requests = 0x6_0000012C_00000000 :: [] ∧
    6 ≤ ((0x6_0000012C_00000000 : Command).extractLsb' 64 3).toNat := by decide
/-- StepWithoutRequestWaits. -/
theorem test_hyp_step_waits : State.reset.requests = [] := by decide
/-- LegalRequestGetsOneResponse. -/
theorem test_hyp_one_response : busy.requests = encode (.mul 3 5) :: [encode (.div 7 0)] := by decide
/-- RunAnswersInRequestOrder. -/
theorem test_hyp_run : busy.requests = [Instr.mul 3 5, .div 7 0].map encode ++ [] := by decide
/-- StepKeepsHistory. -/
theorem test_hyp_history : History defaultConfig [⟨0, 1⟩] 3 busy ∧
    step busy = .next { State.reset with requests := [encode (.div 7 0)], responses := [⟨0, 1⟩, ⟨0, 15⟩] } :=
  ⟨⟨rfl, ⟨[], rfl⟩, rfl⟩, rfl⟩
/-- ResetTableIsNearestInteger, its inner premise at the last index that meets it. -/
theorem test_hyp_reset_table : (30 : Fin 32).val + 1 < 32 := by decide
/-- NothingWritesTheRom: a step, an operation and a taken response. -/
theorem test_hyp_rom : (∃ t, step busy = .next t) ∧ (∃ t, exec (.mul 3 5) busy = .next t) ∧
    ∃ r t, takeResponse busy = some (r, t) := ⟨⟨_, rfl⟩, ⟨_, rfl⟩, ⟨_, _, rfl⟩⟩
/-- OperationFrame, for each of the six operations. -/
theorem test_hyp_frame : ∀ i ∈ [Instr.rsqrt 5 0, .clz 5 0, .mulw 3 5, .mul 3 5, .div 7 0, .mod 7 0],
    ∃ t, exec i busy = .next t := by
  intro i hi
  cases i <;> exact ⟨_, rfl⟩
/-- OnlyMulwUsesTheHighWord. -/
theorem test_hyp_high_word : Answers defaultConfig (.mul 3 5) ⟨0, 15⟩ ∧ ∀ a b, Instr.mul 3 5 ≠ .mulw a b :=
  ⟨answers_mul, nofun⟩
/-- ClzCountsLeadingZeros: the premise 0, and a highest bit at either end of the word. -/
theorem test_hyp_clz : (0 : Word) = 0 ∧ (0x80000000 : Word).getLsbD 31 = true ∧ (1 : Word).getLsbD 0 = true ∧
    (∀ j, 31 < j → (0x80000000 : Word).getLsbD j = false) ∧ ∀ j, 0 < j → (1 : Word).getLsbD j = false := by
  refine ⟨rfl, rfl, rfl, fun j hj => BitVec.getLsbD_of_ge _ j hj, fun j hj => ?_⟩
  cases j with
  | zero => omega
  | succ j => simp
/-- ClzBounds. -/
theorem test_hyp_clz_bounds : (1 : Word) ≠ 0 ∧ (1 : Word) ≤ 0xFFFFFFFF := by decide
/-- MulwResponseWordIsTheProduct and MulIsTheLowWordOfMulw. -/
theorem test_hyp_mul_mulw : Answers defaultConfig (.mul 3 5) ⟨0, 15⟩ ∧ Answers defaultConfig (.mulw 3 5) ⟨0, 15⟩ :=
  ⟨answers_mul, answers_mulw⟩
/-- MulwLaws, both ends of the range of `k`. -/
theorem test_hyp_mulw_laws : (1 ≤ 1 ∧ 1 ≤ 31) ∧ (1 ≤ 31 ∧ 31 ≤ 31) := by decide
/-- DivIsTheFloorQuotient and ModIsTheRemainder: a zero and a nonzero divisor. -/
theorem test_hyp_divisors : (7 : Word) ≠ 0 ∧ (0 : Word) = 0 := by decide
/-- DivModInvariant: a nonzero divisor and a zero one. -/
theorem test_hyp_div_mod : (Answers defaultConfig (.div 100 7) ⟨0, 14⟩ ∧ Answers defaultConfig (.mod 100 7) ⟨0, 2⟩) ∧
    (Answers defaultConfig (.div 5 0) ⟨0, 0⟩ ∧ Answers defaultConfig (.mod 5 0) ⟨0, 0⟩) :=
  ⟨⟨answers_div, answers_mod⟩, ⟨answers_div_zero, answers_mod_zero⟩⟩
/-- SeedLookup: the top bucket and the one below it. -/
theorem test_hyp_seed_lookup : (31 : Fin 32).val = 31 ∧ (30 : Fin 32).val + 1 < 32 := by decide
/-- FracIsThePositionInTheBucket: a word in its bucket, and the buckets on both sides of 16. -/
theorem test_hyp_frac : (2 ^ (8 : Fin 32).val ≤ (300 : Word).toNat ∧ (300 : Word).toNat < 2 ^ ((8 : Fin 32).val + 1)) ∧
    (15 : Fin 32).val < 16 ∧ 16 ≤ (16 : Fin 32).val := by decide
/-- FracOrderAndLargestValue: the bottom and the top of buckets 16, where both clauses hold, and 1. -/
theorem test_hyp_frac_order :
    (2 ^ (16 : Fin 32).val ≤ (0x10000 : Word).toNat ∧ (0x10000 : Word) < 0x1FFFF ∧
      (0x1FFFF : Word).toNat < 2 ^ ((16 : Fin 32).val + 1) ∧
      (0x1FFFF : Word).toNat = 2 ^ ((16 : Fin 32).val + 1) - 1) ∧
    (2 ^ (1 : Fin 32).val ≤ (2 : Word).toNat ∧ (2 : Word) < 3 ∧ (3 : Word).toNat < 2 ^ ((1 : Fin 32).val + 1)) := by decide
/-- InterpolatedSeedBounds and InterpolationProductDoesNotWrap: an admissible table, fraction 0, entries that differ,
an ordered pair of fractions, an operand. -/
theorem test_hyp_interp : SeedTable.Anchored defaultSeed ∧ SeedTable.NonIncreasing defaultSeed ∧
    1 ≤ (defaultSeed[31]).toNat ∧ frac 8 256 = 0 ∧ 1 ≤ (delta defaultSeed 8).toNat ∧ frac 8 256 ≤ frac 8 300 ∧
    (7 : Word) ≠ 0 ∧ (7 : Word) ≠ 0xFFFFFFFF := by decide
/-- NewtonFixedPoints. -/
theorem test_hyp_fixed_point : xy2 32768 4 = 65536 := by decide
/-- WordLevelRefinerRealisesNewton, at the largest seed. -/
theorem test_hyp_word_newton : (65536 : Word).toNat ≤ 65536 := by decide
/-- DefaultRefinerRanges, at both ends of the general path. -/
theorem test_hyp_ranges : ((1 : Word) ≠ 0 ∧ (1 : Word) ≠ 0xFFFFFFFF) ∧
    ((0xFFFFFFFE : Word) ≠ 0 ∧ (0xFFFFFFFE : Word) ≠ 0xFFFFFFFF) := by decide
/-- RsqrtFollowsItsThreeCases: one operand for each case. -/
theorem test_hyp_three_cases : (0 : Word) = 0 ∧ (0xFFFFFFFF : Word) = 0xFFFFFFFF ∧ (5 : Word) ≠ 0 ∧
    (5 : Word) ≠ 0xFFFFFFFF := by decide
/-- RsqrtGeneralPathInNumbers: `x = 300` with the default table, the values of 43 R83 and 44 R88. -/
theorem test_hyp_general_path : (300 : Word) ≠ 0xFFFFFFFF ∧ 2 ^ (8 : Fin 32).val ≤ (300 : Word).toNat ∧
    (300 : Word).toNat < 2 ^ ((8 : Fin 32).val + 1) ∧
    2896 = (if h : (8 : Fin 32).val + 1 < 32 then (State.reset.cfg.seed[(8 : Fin 32).val + 1]).toNat else 1) ∧
    11264 = ((300 : Word).toNat - 2 ^ (8 : Fin 32).val) * 2 ^ 16 / 2 ^ (8 : Fin 32).val ∧
    1200 = (2 ^ 32 + (State.reset.cfg.seed[(8 : Fin 32).val]).toNat - 2896) % 2 ^ 32 ∧
    3890 = (2 ^ 32 + (State.reset.cfg.seed[(8 : Fin 32).val]).toNat - 1200 * 11264 % 2 ^ 32 / 2 ^ 16) % 2 ^ 32 ∧
    69269 = (300 : Word).toNat * (3890 * 3890) / 2 ^ 16 % 2 ^ 32 ∧
    127339 = (2 ^ 32 + 0x00030000 - 69269) % 2 ^ 32 := by decide
/-- RsqrtReadsOnlyItsBucket: `x = 5` is in bucket 2, and the second table differs in entry 20. -/
theorem test_hyp_own_bucket :
    (2 ^ (2 : Fin 32).val ≤ (5 : Word).toNat ∧ (5 : Word).toNat < 2 ^ ((2 : Fin 32).val + 1)) ∧
    defaultConfig.seed[(2 : Fin 32).val] = (defaultSeed.set 20 0)[(2 : Fin 32).val] ∧
    (∀ h : (2 : Fin 32).val + 1 < 32,
      defaultConfig.seed[(2 : Fin 32).val + 1] = (defaultSeed.set 20 0)[(2 : Fin 32).val + 1]) ∧
    Answers defaultConfig (.rsqrt 5 0) ⟨0, 29250⟩ :=
  ⟨by decide, by decide, fun _ => rfl, answers_rsqrt⟩
/-- OtherOperationsReadNoTable. -/
theorem test_hyp_no_table : Instr.mul 3 5 ∈
    ([.clz 3 5, .mulw 3 5, .mul 3 5, .div 3 5, .mod 3 5, .rsqrt 0 5, .rsqrt 0xFFFFFFFF 5] : List Instr) ∧
    Answers defaultConfig (.mul 3 5) ⟨0, 15⟩ := ⟨by decide, answers_mul⟩
/-- DefaultResultRange. -/
theorem test_hyp_default_range : State.reset.cfg = defaultConfig ∧ (0 : Word) = 0 ∧ (1 : Word) ≠ 0 := by decide
/-- DefaultTopBucket, at both ends. -/
theorem test_hyp_top_bucket : (0x80000000 : Word) ≤ 0x80000000 ∧ (0x80000000 : Word) ≤ 0xFFFFFFFE ∧
    (0x80000000 : Word) ≤ 0xFFFFFFFE ∧ (0xFFFFFFFE : Word) ≤ 0xFFFFFFFE := by decide

end Sys2Proof.Tests
end

section
/-! SUPPORT. The scope of the engine (00_scope.md): an operation has one answer under a table. -/

namespace Sys2Proof.Safety

open Sys2Proof.Machine

/-- Every operation has an answer under every configuration (R14, total). -/
theorem exists_answers (c : Config) (i : Instr) : ∃ r, Answers c i r := by
  obtain ⟨r, hr⟩ := exec_responds c i
  exact ⟨r, fun s hs => (hr s hs).trans ((respond_eq_next_iff r s _).2 rfl)⟩

/-- An operation has at most one answer under a configuration (R14, pure): in the state with nothing pending, two
answers would be the whole response list of the same next state. -/
theorem Answers.unique {c : Config} {i : Instr} {r r' : Response} (h : Answers c i r) (h' : Answers c i r') :
    r = r' := by
  have hnext := (h ⟨c, [], []⟩ rfl).symm.trans (h' ⟨c, [], []⟩ rfl)
  simpa using hnext

/-- Settles O18: the answer that `exec_responds` reads off the operands and the table is the only one. -/
theorem operationsArePureAndTotal : Obligations.OperationsArePureAndTotal := by
  intro c i
  obtain ⟨r, hr⟩ := exists_answers c i
  exact ⟨r, hr, fun _ hr' => hr'.unique hr⟩

end Sys2Proof.Safety
end

section
/-! SUPPORT. The memory of the engine (20_memory.md): the seed table is read and never written. -/

namespace Sys2Proof.Machine

/-- The read primitive, `RomRead(i) = SEED[i]` (R30). -/
theorem romRead_eq_getElem (t : SeedTable) (e : Fin 32) : romRead t e = t[e.val] := rfl

/-- Inversion of an operation: it returned a response behind the others, and its next state differs in nothing else
(R26). -/
theorem exec_cases {i : Instr} {s t : State} (h : exec i s = .next t) :
    ∃ r, t = { s with responses := s.responses ++ [r] } := by
  obtain ⟨r, hr⟩ := exec_responds s.cfg i
  exact ⟨r, (respond_eq_next_iff r s t).1 ((hr s rfl).symm.trans h)⟩

/-- Inversion of the requester's taking a response: it was the oldest one, and nothing else changes (R112). -/
theorem takeResponse_cases {s t : State} {r : Response} (h : takeResponse s = some (r, t)) :
    ∃ rest, s.responses = r :: rest ∧ t = { s with responses := rest } := by
  cases hq : s.responses with
  | nil => simp [takeResponse, hq] at h
  | cons r' rest =>
    rw [takeResponse_of_cons hq] at h
    cases h
    exact ⟨rest, rfl, rfl⟩

/-- No operation writes the configuration (R33). -/
theorem exec_cfg {i : Instr} {s t : State} (h : exec i s = .next t) : t.cfg = s.cfg := by
  obtain ⟨r, rfl⟩ := exec_cases h
  rfl

/-- No step writes the configuration, whether it waits or answers a request (R33). -/
theorem step_cfg {s t : State} (h : step s = .next t) : t.cfg = s.cfg := by
  obtain ⟨-, rfl⟩ | ⟨c, rest, i, r, -, -, -, rfl⟩ := step_cases h
  · rfl
  · rfl

/-- The requester does not write the configuration when it takes a response (R33). -/
theorem takeResponse_cfg {s t : State} {r : Response} (h : takeResponse s = some (r, t)) : t.cfg = s.cfg := by
  obtain ⟨rest, -, rfl⟩ := takeResponse_cases h
  rfl

/-- Settles O15: a step, an operation and each action of the requester keep the configuration, and with it every read
of the table. -/
theorem nothingWritesTheRom : Obligations.NothingWritesTheRom := by
  intro s e
  refine ⟨romRead_eq_getElem s.cfg.seed e, fun t h => ?_, fun i t h => ?_, fun c => ?_, fun r t h => ?_, ?_⟩
  · rw [step_cfg h]
  · rw [exec_cfg h]
  · rw [present_cfg]
  · rw [takeResponse_cfg h]
  · rw [assertReset_cfg]

end Sys2Proof.Machine
end

section
/-! SUPPORT. Proofs: the leading-zero count of the word 0 and of a word whose highest 1 bit is known, and CLZ, which
answers it (40_bitscan.md). -/

namespace Sys2Proof.Machine

/-- CLZ always answers, and its answer is the leading-zero count in a single word (R56). -/
theorem exec_clz_eq_next (a b : Word) (s : State) :
    exec (.clz a b) s = .next { s with responses := s.responses ++ [⟨0, BitVec.ofNat 32 (clz a)⟩] } := rfl

theorem leadingZerosBelow_zero (k : Nat) : leadingZerosBelow 0 k = k := by
  induction k with
  | zero => rfl
  | succ k ih => simpa [leadingZerosBelow] using ih

/-- The word 0 has 32 leading zeros, by the same scan as every other word (R55). -/
theorem clz_zero : clz 0 = 32 := leadingZerosBelow_zero 32

theorem clz_le (a : Word) : clz a ≤ 32 := leadingZerosBelow_le a 32

/-- The highest 1 bit, at index `k`, is the one the scan stops at (R54). -/
theorem clz_add_of_top {a : Word} {k : Nat} (hk : a.getLsbD k = true)
    (hz : ∀ j, k < j → a.getLsbD j = false) : clz a + k = 31 := by
  have hlt : k < 32 := BitVec.lt_of_getLsbD hk
  have htop := leadingZerosBelow_of_top a k (31 - k) hk hz
  rw [show k + 1 + (31 - k) = 32 by omega] at htop
  rw [clz, htop]
  omega

/-- The count fits in the result word of CLZ. -/
theorem toNat_ofNat_clz (a : Word) : (BitVec.ofNat 32 (clz a)).toNat = clz a := by
  have hle := clz_le a
  rw [BitVec.toNat_ofNat, Nat.mod_eq_of_lt (by omega)]

/-- Settles O22: the answer is the count, which is 32 for the word 0 and `31 - k` for the highest 1 bit `k`. -/
theorem clzCountsLeadingZeros : Obligations.ClzCountsLeadingZeros := by
  intro a b s
  refine ⟨BitVec.ofNat 32 (clz a), exec_clz_eq_next a b s, ?_, fun k hk hz => ?_⟩
  · rintro rfl
    rw [clz_zero]
    rfl
  · rw [toNat_ofNat_clz]
    exact clz_add_of_top hk hz

end Sys2Proof.Machine
end

section
/-! SUPPORT. Proofs: the pair that `mulw` gives is the exact product, and what MULW and MUL answer
(41_multiply.md). -/

namespace Sys2Proof.Machine

/-- MULW always answers, with the high word of the wide product in `r1` and its low word in `r0` (R60). -/
theorem exec_mulw_eq_next (a b : Word) (s : State) :
    exec (.mulw a b) s = .next { s with responses := s.responses ++ [⟨(mulw a b).high, (mulw a b).low⟩] } := rfl

/-- MUL always answers, with the product in a single word (R64). -/
theorem exec_mul_eq_next (a b : Word) (s : State) :
    exec (.mul a b) s = .next { s with responses := s.responses ++ [⟨0, mul a b⟩] } := rfl

/-- The high and low words are quotient and remainder of the product by `2^32`, so no bit of it is lost (R59). -/
theorem mulw_toNat (a b : Word) : (mulw a b).toNat = a.toNat * b.toNat := by
  rw [WideProduct.toNat, mulw_high_toNat, mulw_low_toNat, Nat.div_add_mod']

/-- Settles O25: the two words of the answer are those of the wide product, whose number is the exact product. -/
theorem mulwIsTheExactProduct : Obligations.MulwIsTheExactProduct := by
  intro a b s
  exact ⟨(mulw a b).high, (mulw a b).low, exec_mulw_eq_next a b s, mulw_toNat a b, mulw_low_toNat a b,
    mulw_high_toNat a b⟩

/-- Settles O29: the one word of the answer is the product, reduced modulo `2^32`. -/
theorem mulIsTheProductModulo : Obligations.MulIsTheProductModulo := by
  intro a b s
  exact ⟨mul a b, exec_mul_eq_next a b s, mul_toNat a b⟩

end Sys2Proof.Machine
end

section
/-! SUPPORT. Proofs: `div` and `mod` read as natural numbers for a nonzero divisor, what they give for a zero divisor,
and what DIV and MOD answer (42_divide.md). -/

namespace Sys2Proof.Machine

/-- DIV always answers, with the quotient in a single word (R72). -/
theorem exec_div_eq_next (a b : Word) (s : State) :
    exec (.div a b) s = .next { s with responses := s.responses ++ [⟨0, div a b⟩] } := rfl

/-- MOD always answers, with the remainder in a single word (R73). -/
theorem exec_mod_eq_next (a b : Word) (s : State) :
    exec (.mod a b) s = .next { s with responses := s.responses ++ [⟨0, mod a b⟩] } := rfl

@[simp] theorem div_zero_right (a : Word) : div a 0 = 0 := if_pos rfl

theorem div_of_ne_zero {b : Word} (a : Word) (hb : b ≠ 0) : div a b = trunc32 (a.toNat / b.toNat) := if_neg hb

@[simp] theorem mod_zero_right (a : Word) : mod a 0 = 0 := if_pos rfl

theorem mod_of_ne_zero {b : Word} (a : Word) (hb : b ≠ 0) : mod a b = trunc32 (a.toNat % b.toNat) := if_neg hb

/-- The quotient is at most the dividend, so it fits a word and nothing is cut off (R67). -/
theorem div_toNat {b : Word} (a : Word) (hb : b ≠ 0) : (div a b).toNat = a.toNat / b.toNat := by
  have hlt : a.toNat / b.toNat < 2 ^ 32 := (Nat.div_le_self _ _).trans_lt a.isLt
  rw [div_of_ne_zero a hb, trunc32_toNat, Nat.mod_eq_of_lt hlt]

/-- The remainder is at most the dividend, so it fits a word and nothing is cut off (R68). -/
theorem mod_toNat {b : Word} (a : Word) (hb : b ≠ 0) : (mod a b).toNat = a.toNat % b.toNat := by
  have hlt : a.toNat % b.toNat < 2 ^ 32 := (Nat.mod_le _ _).trans_lt a.isLt
  rw [mod_of_ne_zero a hb, trunc32_toNat, Nat.mod_eq_of_lt hlt]

/-- Settles O32: the one word of the answer is `div a b`, by the two cases of the divisor. -/
theorem divIsTheFloorQuotient : Obligations.DivIsTheFloorQuotient := by
  intro a b s
  refine ⟨div a b, exec_div_eq_next a b s, div_toNat a, ?_⟩
  rintro rfl
  exact div_zero_right a

/-- Settles O33: the one word of the answer is `mod a b`, and the remainder is what the multiples of the divisor leave
of the dividend. -/
theorem modIsTheRemainder : Obligations.ModIsTheRemainder := by
  intro a b s
  refine ⟨mod a b, exec_mod_eq_next a b s, fun hb => ?_, ?_⟩
  · rw [mod_toNat a hb, Nat.mod_eq_sub_mul_div]
  · rintro rfl
    exact mod_zero_right a

end Sys2Proof.Machine
end

section
/-! SUPPORT. Proofs: the two table reads of a bucket (43_seed_interpolator.md). -/

namespace Sys2Proof.Machine

/-- The first read of a bucket is its own entry, `seed(e) = SEED[e]` (R75). -/
theorem seed_eq_getElem (t : SeedTable) (e : Fin 32) : seed t e = t[e.val] := romRead_eq_getElem t e

/-- Below the top bucket the second read is the next entry, `seed_next(e) = SEED[e + 1]` (R75). -/
theorem seedNext_eq_getElem (t : SeedTable) (e : Fin 32) (h : e.val + 1 < 32) : seedNext t e = t[e.val + 1] := by
  rw [seedNext_of_lt t e h, romRead_eq_getElem]

/-- Settles O36: the second read is split at the top bucket, where no entry of the table is read. -/
theorem seedLookup : Obligations.SeedLookup := by
  intro t e
  exact ⟨seed_eq_getElem t e, seedNext_top t e, seedNext_eq_getElem t e⟩

end Sys2Proof.Machine
end

section
/-! SUPPORT. Proofs: the bucket of a nonzero word is the interval of powers of two that holds it, what `rsqrt` gives in
each of its three cases, and what RSQRT answers (45_reciprocal_sqrt.md). -/

namespace Sys2Proof.Machine

/-- RSQRT always answers, with the result of `rsqrt` under the table in a single word (R97). -/
theorem exec_rsqrt_eq_next (a b : Word) (s : State) :
    exec (.rsqrt a b) s = .next { s with responses := s.responses ++ [⟨0, rsqrt s.cfg.seed a⟩] } := rfl

/-- In the interval of powers of two `[2^k, 2^(k + 1))` the highest 1 bit is bit `k`, so the leading zeros are those
above it (R54). -/
theorem clz_add_of_two_pow_le_of_lt {x : Word} {k : Nat} (hlo : 2 ^ k ≤ x.toNat) (hhi : x.toNat < 2 ^ (k + 1)) :
    clz x + k = 31 := by
  have habove : ∀ j, k < j → x.getLsbD j = false := fun j hj =>
    Nat.testBit_lt_two_pow (hhi.trans_le (Nat.pow_le_pow_right Nat.two_pos hj))
  exact clz_add_of_top (Nat.testBit_of_two_pow_le_and_two_pow_add_one_gt hlo hhi) habove

/-- The exponent bucket, `e = 31 - clz(x)` (R95). -/
theorem bucket_val (x : Word) : (bucket x).val = 31 - clz x := rfl

/-- The bucket is the one whose interval holds `x` (R95). -/
theorem bucket_eq_of_two_pow_le_of_lt {x : Word} {k : Nat} (hlo : 2 ^ k ≤ x.toNat) (hhi : x.toNat < 2 ^ (k + 1)) :
    (bucket x).val = k := by
  have hclz := clz_add_of_two_pow_le_of_lt hlo hhi
  rw [bucket_val]
  omega

/-- Every word but 0 lies in the interval of its bucket (R95, R96). -/
theorem two_pow_bucket_le_and_lt {x : Word} (hx : x ≠ 0) :
    2 ^ (bucket x).val ≤ x.toNat ∧ x.toNat < 2 ^ ((bucket x).val + 1) := by
  have hlo : 2 ^ x.toNat.log2 ≤ x.toNat := Nat.log2_self_le (BitVec.toNat_ne_iff_ne.mpr hx)
  have hhi : x.toNat < 2 ^ (x.toNat.log2 + 1) := Nat.lt_log2_self
  rw [bucket_eq_of_two_pow_le_of_lt hlo hhi]
  exact ⟨hlo, hhi⟩

/-- Case 1, the sentinel (R94). -/
@[simp] theorem rsqrt_zero (t : SeedTable) : rsqrt t 0 = 0xFFFFFFFF := rfl

/-- Case 2, the floor estimate (R94). -/
@[simp] theorem rsqrt_allOnes (t : SeedTable) : rsqrt t 0xFFFFFFFF = 1 := rfl

/-- Case 3, one refinement of the interpolated seed (R94, R89). -/
theorem rsqrt_general (t : SeedTable) {x : Word} (hx : x ≠ 0) (hx' : x ≠ 0xFFFFFFFF) :
    rsqrt t x = newton (interp t (bucket x) x) x :=
  (if_neg hx).trans (if_neg hx')

/-- Settles O45: the answer is that of `rsqrt`, by its three cases, and in the third the bucket is `bucket x`. -/
theorem rsqrtFollowsItsThreeCases : Obligations.RsqrtFollowsItsThreeCases := by
  intro x b s
  refine ⟨rsqrt s.cfg.seed x, exec_rsqrt_eq_next x b s, ?_, ?_, fun hx hx' => ?_⟩
  · rintro rfl
    exact rsqrt_zero s.cfg.seed
  · rintro rfl
    exact rsqrt_allOnes s.cfg.seed
  · obtain ⟨hlo, hhi⟩ := two_pow_bucket_le_and_lt hx
    exact ⟨bucket x, hlo, hhi, bucket_val x, rsqrt_general s.cfg.seed hx hx'⟩

end Sys2Proof.Machine
end

section
/-! SUPPORT. Proofs: the inputs that other hardware might trap on get ordinary responses (60_exceptions.md). -/

namespace Sys2Proof.Machine

/-- Settles O21: every operation answers with the result of its function, which is 0 for a zero divisor, the sentinel
for RSQRT of 0, and the product cut to a word for MUL. -/
theorem noTrapOnSpecialInputs : Obligations.NoTrapOnSpecialInputs := by
  intro a b s
  refine ⟨?_, ?_, ?_, mulIsTheProductModulo a b s⟩
  · rw [exec_div_eq_next, div_zero_right]
  · rw [exec_mod_eq_next, mod_zero_right]
  · rw [exec_rsqrt_eq_next, rsqrt_zero]

end Sys2Proof.Machine
end

section
/-! SUPPORT. Proofs: a request record and its command word determine each other, so do an operation and its request
record, and with them the decoder and the encoder agree (30_encoding.md). -/

namespace Sys2Proof

/-- The three fields of a command word lie where `{op, a, b}` puts them (R43). -/
@[simp] theorem Request.ofCommand_command (r : Request) : Request.ofCommand r.command = r := by
  have ha : r.command.extractLsb' 32 32 = r.a := by
    ext k hk
    rw [BitVec.getElem_extractLsb', Request.command_getLsbD, if_neg (by omega), if_pos (by omega),
      Nat.add_sub_cancel_left, BitVec.getLsbD_eq_getElem hk]
  have hb : r.command.extractLsb' 0 32 = r.b := by
    ext k hk
    rw [BitVec.getElem_extractLsb', Request.command_getLsbD, if_pos (by omega), Nat.zero_add,
      BitVec.getLsbD_eq_getElem hk]
  rw [Request.ofCommand, Laws.CodeField.command_code, ha, hb]

/-- The three fields cover all 67 bits, so no bit of a command word is dropped (R43). -/
@[simp] theorem Request.command_ofCommand (c : Command) : (Request.ofCommand c).command = c := by
  apply BitVec.eq_of_getLsbD_eq
  intro k hk
  rw [Request.command_getLsbD]
  simp only [Request.ofCommand, BitVec.getLsbD_extractLsb']
  split_ifs with hb ha
  · simp [hb]
  · simp [show k - 32 < 32 by omega, show 32 + (k - 32) = k by omega]
  · simp [show k - 64 < 3 by omega, show 64 + (k - 64) = k by omega]

/-- A record is fixed by its operands and the number of its code. -/
theorem Request.mk_eq_of_code {r : Request} {op : BitVec 3} (h : r.op.toNat = op.toNat) : ⟨op, r.a, r.b⟩ = r := by
  rw [← BitVec.eq_of_toNat_eq h]

/-- Inversion of the verdict: a code up to 5 gives the operation whose record this is (R45), a code from 6 on gives
"reserved" (R49). -/
theorem Request.verdict_cases (r : Request) :
    (r.WellFormed ∧ ∃ i, r.verdict = .operation i ∧ i.request = r) ∨
    (6 ≤ r.op.toNat ∧ r.verdict = .reserved r.op) := by
  unfold Request.verdict Request.WellFormed
  split
  case h_1 h => exact .inl ⟨by omega, .rsqrt r.a r.b, rfl, mk_eq_of_code h⟩
  case h_2 h => exact .inl ⟨by omega, .clz r.a r.b, rfl, mk_eq_of_code h⟩
  case h_3 h => exact .inl ⟨by omega, .mulw r.a r.b, rfl, mk_eq_of_code h⟩
  case h_4 h => exact .inl ⟨by omega, .mul r.a r.b, rfl, mk_eq_of_code h⟩
  case h_5 h => exact .inl ⟨by omega, .div r.a r.b, rfl, mk_eq_of_code h⟩
  case h_6 h => exact .inl ⟨by omega, .mod r.a r.b, rfl, mk_eq_of_code h⟩
  case h_7 h0 h1 h2 h3 h4 h5 => exact .inr ⟨by grind, rfl⟩

theorem Request.verdict_of_wellFormed {r : Request} (h : r.WellFormed) :
    ∃ i, r.verdict = .operation i ∧ i.request = r := by
  obtain ⟨-, hi⟩ | ⟨h6, -⟩ := r.verdict_cases
  · exact hi
  · exact absurd h (by unfold Request.WellFormed; omega)

theorem Request.verdict_of_six_le {r : Request} (h : 6 ≤ r.op.toNat) : r.verdict = .reserved r.op := by
  obtain ⟨h5, -⟩ | ⟨-, hv⟩ := r.verdict_cases
  · exact absurd h (Nat.not_le.mpr (Nat.lt_succ_of_le h5))
  · exact hv

/-- The record of an operation selects that operation (R45). -/
@[simp] theorem Instr.verdict_request (i : Instr) : i.request.verdict = .operation i := by cases i <;> rfl

/-- Only an operation's own record selects it (R45). -/
theorem Request.request_eq_of_verdict {r : Request} {i : Instr} (h : r.verdict = .operation i) : i.request = r := by
  obtain ⟨-, j, hj, hjr⟩ | ⟨-, hv⟩ := r.verdict_cases
  · cases hj.symm.trans h
    exact hjr
  · cases hv.symm.trans h

@[simp] theorem decode_command (r : Request) : decode r.command = r.verdict := by
  rw [decode, Request.ofCommand_command]

/-- Settles O1: the command word gives the record back, and the record selects the operation. -/
theorem decodeOfEncode : Obligations.DecodeOfEncode := by
  intro i
  rw [encode, decode_command, Instr.verdict_request]

/-- Settles O2: the fields of the word are the operation's record, and the record's word is the word itself. -/
theorem encodeOfDecode : Obligations.EncodeOfDecode := by
  intro c i h
  rw [encode, Request.request_eq_of_verdict h, Request.command_ofCommand]

/-- Settles O3, by the inversion of the verdict at a legal code. -/
theorem requestRoundTrip : Obligations.RequestRoundTrip := by
  intro r
  refine ⟨r.ofCommand_command, fun h => ?_⟩
  rw [decode_command]
  exact Request.verdict_of_wellFormed h

/-- A command word read as a number: each field stands at its own power of two (R43). -/
theorem Request.command_toNat (r : Request) :
    r.command.toNat = r.op.toNat * 2 ^ 64 + r.a.toNat * 2 ^ 32 + r.b.toNat := by
  have ha := r.a.isLt
  have hb := r.b.isLt
  show (r.op ++ r.a ++ r.b : BitVec (3 + 32 + 32)).toNat = _
  rw [BitVec.toNat_append, BitVec.toNat_append, ← Nat.shiftLeft_add_eq_or_of_lt ha,
    ← Nat.shiftLeft_add_eq_or_of_lt hb, Nat.shiftLeft_eq, Nat.shiftLeft_eq]
  omega

/-- Settles O4: the record of each operation carries its code and both operands. -/
theorem encodedWordValue : Obligations.EncodedWordValue := by
  intro a b
  exact ⟨Request.command_toNat _, Request.command_toNat _, Request.command_toNat _, Request.command_toNat _,
    Request.command_toNat _, Request.command_toNat _⟩

/-- Settles O5, by the inversion of the verdict on the fields of the word. -/
theorem verdictFollowsTheCode : Obligations.VerdictFollowsTheCode := by
  intro c
  exact ⟨fun h => Request.verdict_of_wellFormed (r := Request.ofCommand c) h,
    fun h => Request.verdict_of_six_le (r := Request.ofCommand c) h⟩

/-- Settles O6, by evaluating the decoder on each word. -/
theorem sampleWordsDecode : Obligations.SampleWordsDecode := by
  unfold Obligations.SampleWordsDecode
  decide

end Sys2Proof
end

section
/-! SUPPORT. Proofs: what a step does with the oldest request, and what runs and histories follow from it
(10_state.md, 60_exceptions.md, 70_reset_and_hazards.md). -/

namespace Sys2Proof.Machine

open Sys2Proof.Safety

/-- Settles O7: the step takes the request and dispatches its operation. -/
theorem stepRunsTheDecodedRequest : Obligations.StepRunsTheDecodedRequest := by
  intro s c rest i hq hd
  simp only [step, takeRequest_of_cons hq, hd]

/-- Settles O8: from code 6 on the decoder says "reserved", for which there is no step. -/
theorem stepRefusesReservedCode : Obligations.StepRefusesReservedCode := by
  intro s c rest hq h6
  have hd : decode c = .reserved (c.extractLsb' 64 3) := (verdictFollowsTheCode c).2 h6
  simp only [step, takeRequest_of_cons hq, hd, refuseReserved]

/-- Settles O9: there is no request to take, so the engine stands idle. -/
theorem stepWithoutRequestWaits : Obligations.StepWithoutRequestWaits := by
  intro s hq
  simp only [step, takeRequest_of_nil hq, idle]

/-- A legal request at the head of the queue is taken and its answer appended (R26). -/
theorem step_of_answers {s : State} {i : Instr} {rest : List Command} {r : Response}
    (hq : s.requests = encode i :: rest) (hr : Answers s.cfg i r) :
    step s = .next { s with requests := rest, responses := s.responses ++ [r] } :=
  (stepRunsTheDecodedRequest s _ rest i hq (decodeOfEncode i)).trans (hr _ rfl)

/-- Settles O10: the operation's answer exists, and the step appends it. -/
theorem legalRequestGetsOneResponse : Obligations.LegalRequestGetsOneResponse := by
  intro s i rest hq
  obtain ⟨r, hr⟩ := exists_answers s.cfg i
  exact ⟨r, hr, step_of_answers hq hr⟩

/-- A run goes on from the next state of its first step. -/
theorem run_succ_of_step (M : Host.Core) {s t : M.State} (h : M.step s = .next t) (k : Nat) :
    M.run (k + 1) s = M.run k t := by
  rw [Host.Core.run, h]

/-- Settles O11, by induction on the requests: the first is answered by O10, which leaves the table unchanged for the
others. -/
theorem runAnswersInRequestOrder : Obligations.RunAnswersInRequestOrder := by
  intro s is rest hq
  induction is generalizing s with
  | nil =>
    refine ⟨[], .nil, congrArg Host.Outcome.next ?_⟩
    rw [List.append_nil, ← show s.requests = rest from hq]
  | cons i is ih =>
    obtain ⟨r, hr, hstep⟩ := legalRequestGetsOneResponse s i _ hq
    obtain ⟨rs, hrs, hrun⟩ := ih { s with requests := is.map encode ++ rest, responses := s.responses ++ [r] } rfl
    refine ⟨r :: rs, .cons hr hrs, (run_succ_of_step Sys2Proof.core hstep is.length).trans (hrun.trans ?_)⟩
    rw [List.append_assoc, List.singleton_append]

/-- Settles O12, by the inversion of the step: it waited, or one request became one response behind the others. -/
theorem stepKeepsHistory : Obligations.StepKeepsHistory := by
  intro c old n s t hist hstep
  obtain ⟨-, rfl⟩ | ⟨cmd, rest, i, r, hq, -, -, rfl⟩ := step_cases hstep
  · exact hist
  · obtain ⟨hcfg, hold, hcount⟩ := hist
    refine ⟨hcfg, hold.trans (List.prefix_append _ _), ?_⟩
    simp only [hq, List.length_cons, List.length_append, List.length_nil] at hcount ⊢
    omega

/-- Settles O13: both lists are empty, and the default table is admissible. -/
theorem resetStartsHistory : Obligations.ResetStartsHistory :=
  ⟨⟨reset_cfg, List.nil_prefix, rfl⟩, by decide⟩

/-- Settles O14, by evaluating the 32 entries. -/
theorem resetTableIsNearestInteger : Obligations.ResetTableIsNearestInteger := by
  unfold Obligations.ResetTableIsNearestInteger
  decide

/-- Settles O16: reset empties both lists, so the next step finds no request. -/
theorem assertedResetKeepsOnlyTheTable : Obligations.AssertedResetKeepsOnlyTheTable := by
  intro s
  exact ⟨rfl, stepWithoutRequestWaits _ (assertReset_requests s)⟩

end Sys2Proof.Machine
end

section
/-! SUPPORT. Proofs: the answer of each operation, what is common to all six, and which of them read the second operand,
the high word and the table (10_state.md, 20_memory.md, 30_encoding.md). -/

namespace Sys2Proof.Safety

/-- An operation with one answer under every configuration keeps its answer when the configuration changes. -/
theorem Answers.of_constant {i : Instr} {r₀ : Response} (hconst : ∀ c, Answers c i r₀) {c : Config} {r : Response}
    (hr : Answers c i r) (c' : Config) : Answers c' i r := by
  rw [hr.unique (hconst c)]
  exact hconst c'

end Sys2Proof.Safety

namespace Sys2Proof.Machine

open Sys2Proof.Safety

theorem answers_rsqrt (c : Config) (a b : Word) : Answers c (.rsqrt a b) ⟨0, rsqrt c.seed a⟩ := by
  rintro s rfl
  exact exec_rsqrt_eq_next a b s

theorem answers_clz (c : Config) (a b : Word) : Answers c (.clz a b) ⟨0, BitVec.ofNat 32 (clz a)⟩ :=
  fun s _ => exec_clz_eq_next a b s

theorem answers_mulw (c : Config) (a b : Word) : Answers c (.mulw a b) ⟨(mulw a b).high, (mulw a b).low⟩ :=
  fun s _ => exec_mulw_eq_next a b s

theorem answers_mul (c : Config) (a b : Word) : Answers c (.mul a b) ⟨0, mul a b⟩ :=
  fun s _ => exec_mul_eq_next a b s

theorem answers_div (c : Config) (a b : Word) : Answers c (.div a b) ⟨0, div a b⟩ :=
  fun s _ => exec_div_eq_next a b s

theorem answers_mod (c : Config) (a b : Word) : Answers c (.mod a b) ⟨0, mod a b⟩ :=
  fun s _ => exec_mod_eq_next a b s

/-- Settles O17, by the inversion of an operation. -/
theorem operationFrame : Obligations.OperationFrame := by
  intro i s t h
  obtain ⟨r, rfl⟩ := exec_cases h
  exact ⟨rfl, fun _ => rfl, rfl, r, rfl⟩

/-- Settles O19: neither function has the field among its arguments. -/
theorem unusedOperandIsIgnored : Obligations.UnusedOperandIsIgnored := by
  intro a b b' s
  exact ⟨rfl, rfl⟩

/-- Settles O20: the answer is the single word that the operation's own rule gives. -/
theorem onlyMulwUsesTheHighWord : Obligations.OnlyMulwUsesTheHighWord := by
  intro c i r hr hne
  cases i with
  | rsqrt a b => rw [hr.unique (answers_rsqrt c a b)]
  | clz a b => rw [hr.unique (answers_clz c a b)]
  | mulw a b => exact absurd rfl (hne a b)
  | mul a b => rw [hr.unique (answers_mul c a b)]
  | div a b => rw [hr.unique (answers_div c a b)]
  | mod a b => rw [hr.unique (answers_mod c a b)]

/-- Settles O48: five functions have no table among their arguments, and `rsqrt` is constant on its two special
operands. -/
theorem otherOperationsReadNoTable : Obligations.OtherOperationsReadNoTable := by
  intro c c' a b i r hi hr
  simp only [List.mem_cons, List.not_mem_nil, or_false] at hi
  obtain rfl | rfl | rfl | rfl | rfl | rfl | rfl := hi
  · exact Answers.of_constant (answers_clz · a b) hr c'
  · exact Answers.of_constant (answers_mulw · a b) hr c'
  · exact Answers.of_constant (answers_mul · a b) hr c'
  · exact Answers.of_constant (answers_div · a b) hr c'
  · exact Answers.of_constant (answers_mod · a b) hr c'
  · exact Answers.of_constant (r₀ := ⟨0, 0xFFFFFFFF⟩) (answers_rsqrt · 0 b) hr c'
  · exact Answers.of_constant (r₀ := ⟨0, 1⟩) (answers_rsqrt · 0xFFFFFFFF b) hr c'

/-- The interpolated seed depends on the table through the two reads of its bucket only (R31, R76). -/
theorem interp_congr {t t' : SeedTable} {e : Fin 32} (h : seed t e = seed t' e) (hnext : seedNext t e = seedNext t' e)
    (x : Word) : interp t e x = interp t' e x := by
  rw [interp, interp, delta, delta, h, hnext]

/-- The second read agrees where the next entry does; in the top bucket it is the same constant (R75). -/
theorem seedNext_congr {t t' : SeedTable} {e : Fin 32} (h : ∀ h : e.val + 1 < 32, t[e.val + 1] = t'[e.val + 1]) :
    seedNext t e = seedNext t' e := by
  by_cases he : e.val + 1 < 32
  · rw [seedNext_eq_getElem t e he, seedNext_eq_getElem t' e he, h he]
  · have htop : e.val = 31 := by omega
    rw [seedNext_top t e htop, seedNext_top t' e htop]

theorem ne_zero_of_two_pow_le {x : Word} {k : Nat} (hlo : 2 ^ k ≤ x.toNat) : x ≠ 0 :=
  BitVec.toNat_ne_iff_ne.mp ((Nat.two_pow_pos k).trans_le hlo).ne'

/-- The bucket that holds a word is its bucket (R95). -/
theorem bucket_eq_of_mem {x : Word} {e : Fin 32} (hlo : 2 ^ e.val ≤ x.toNat) (hhi : x.toNat < 2 ^ (e.val + 1)) :
    bucket x = e :=
  Fin.ext (bucket_eq_of_two_pow_le_of_lt hlo hhi)

/-- Tables that give a word the same interpolated seed give it the same result. -/
theorem rsqrt_congr {t t' : SeedTable} {x : Word} (h : seedOf t x = seedOf t' x) : rsqrt t x = rsqrt t' x := by
  rw [rsqrt, rsqrt, h]

/-- Settles O47: the interpolated seed reads the two entries on which the tables agree. -/
theorem rsqrtReadsOnlyItsBucket : Obligations.RsqrtReadsOnlyItsBucket := by
  intro c c' x b e r hlo hhi hseed hnext hr
  have hseedOf : seedOf c.seed x = seedOf c'.seed x := by
    rw [seedOf, seedOf, bucket_eq_of_mem hlo hhi]
    exact interp_congr hseed (seedNext_congr hnext) x
  rw [hr.unique (answers_rsqrt c x b), rsqrt_congr hseedOf]
  exact answers_rsqrt c' x b

end Sys2Proof.Machine
end

section
/-! SUPPORT. Proofs: the leading-zero count by the size of the word in bits, its bounds, and the five-stage scan
(40_bitscan.md). -/

namespace Sys2Proof.Machine

theorem size_toNat_le (a : Word) : a.toNat.size ≤ 32 := Nat.size_le.mpr a.isLt

/-- The leading zeros are the bits of the word that its number does not use (R54). -/
theorem clz_eq_sub_size (a : Word) : clz a = 32 - a.toNat.size := by
  by_cases ha : a = 0
  · rw [ha, clz_zero]
    rfl
  · obtain ⟨k, hk⟩ := Nat.exists_eq_succ_of_ne_zero (mt Nat.size_eq_zero.mp (BitVec.toNat_ne_iff_ne.mpr ha))
    have hlo : 2 ^ k ≤ a.toNat := Nat.lt_size.mp (by omega)
    have hhi : a.toNat < 2 ^ (k + 1) := Nat.size_le.mp hk.le
    have hclz := clz_add_of_two_pow_le_of_lt hlo hhi
    omega

/-- Settles O23: every clause is a fact about the size of the word. -/
theorem clzBounds : Obligations.ClzBounds := by
  intro a
  have hsize := size_toNat_le a
  refine ⟨clz_le a, ?_, fun ha => ?_, fun a' haa' => ?_⟩
  · calc clz a = 32 ↔ a.toNat.size = 0 := by rw [clz_eq_sub_size]; omega
      _ ↔ a.toNat = 0 := Nat.size_eq_zero
      _ ↔ a = 0 := BitVec.toNat_eq (y := (0 : Word)).symm
  · have hpos : 0 < a.toNat.size := Nat.size_pos.mpr (Nat.pos_of_ne_zero (BitVec.toNat_ne_iff_ne.mpr ha))
    rw [clz_eq_sub_size]
    exact ⟨Nat.lt_size.mp (by omega), Nat.size_le.mp (by omega)⟩
  · have hmono : a.toNat.size ≤ a'.toNat.size := Nat.size_le_size (BitVec.le_def.mp haa')
    rw [clz_eq_sub_size, clz_eq_sub_size]
    omega

theorem size_shiftRight (n k : Nat) : (n >>> k).size = n.size - k := by
  refine eq_of_forall_ge_iff fun m => ?_
  rw [Nat.size_le, Nat.shiftRight_eq_div_pow, Nat.div_lt_iff_lt_mul (Nat.two_pow_pos k), ← Nat.pow_add, ← Nat.size_le]
  omega

/-- A stage lowers the count by what it shifts out of the size, so their difference stays as it is (R58). -/
theorem scanStage_sub_size (c n : Nat) (v : Word) :
    (scanStage c (n, v)).1 - (scanStage c (n, v)).2.toNat.size = n - v.toNat.size := by
  rw [scanStage]
  split_ifs with h
  · rfl
  · have hlt : c < v.toNat.size := by
      have hpos : 0 < (v >>> c).toNat.size := Nat.size_pos.mpr (Nat.pos_of_ne_zero (BitVec.toNat_ne_iff_ne.mpr h))
      rw [BitVec.toNat_ushiftRight, size_shiftRight] at hpos
      omega
    simp only [BitVec.toNat_ushiftRight, size_shiftRight]
    omega

/-- A stage with shift amount `c` leaves at most `c` of at most `2 c` bits (R58). -/
theorem size_scanStage_le {c n : Nat} {v : Word} (h : v.toNat.size ≤ 2 * c) :
    (scanStage c (n, v)).2.toNat.size ≤ c := by
  rw [scanStage]
  split_ifs with hz
  · have hsize : (v >>> c).toNat.size = 0 := congrArg (fun w : Word => w.toNat.size) hz
    rw [BitVec.toNat_ushiftRight, size_shiftRight] at hsize
    exact Nat.sub_eq_zero_iff_le.mp hsize
  · simp only [BitVec.toNat_ushiftRight, size_shiftRight]
    omega

/-- A number of at most one bit is its own size. -/
theorem size_eq_self_of_size_le_one {n : Nat} (h : n.size ≤ 1) : n.size = n := by
  have hn : n < 2 := Nat.size_le.mp h
  interval_cases n <;> rfl

/-- Settles O24: the five stages leave one bit, whose size is the last subtraction. -/
theorem scanRealisesClz : Obligations.ScanRealisesClz := by
  intro a
  have hsize : (scanStage 1 (scanStage 2 (scanStage 4 (scanStage 8 (scanStage 16 (32, a)))))).2.toNat.size ≤ 1 :=
    size_scanStage_le (size_scanStage_le (size_scanStage_le (size_scanStage_le (size_scanStage_le (size_toNat_le a)))))
  rw [scanClz, ← size_eq_self_of_size_le_one hsize, scanStage_sub_size, scanStage_sub_size, scanStage_sub_size,
    scanStage_sub_size, scanStage_sub_size, clz_eq_sub_size]

end Sys2Proof.Machine
end

section
/-! SUPPORT. Proofs: the laws of the wide product, and the realisations of both multipliers (41_multiply.md). -/

namespace Sys2Proof

/-- A response word read as a number (R44). -/
theorem Response.word_toNat (r : Response) : r.word.toNat = r.r1.toNat * 2 ^ 32 + r.r0.toNat := by
  show (r.r1 ++ r.r0 : BitVec (32 + 32)).toNat = _
  rw [BitVec.toNat_append, ← Nat.shiftLeft_add_eq_or_of_lt r.r0.isLt, Nat.shiftLeft_eq]

/-- A pair of words is fixed by the number it stands for. -/
theorem WideProduct.eq_of_toNat_eq {p q : WideProduct} (h : p.toNat = q.toNat) : p = q := by
  obtain ⟨ph, pl⟩ := p
  obtain ⟨qh, ql⟩ := q
  simp only [WideProduct.toNat] at h
  have hhigh : ph = qh := BitVec.eq_of_toNat_eq (by omega)
  have hlow : pl = ql := BitVec.eq_of_toNat_eq (by omega)
  rw [hhigh, hlow]

end Sys2Proof

namespace Sys2Proof.Machine

open Sys2Proof.Safety

/-- Settles O26: the answer is laid out as the wide product is read. -/
theorem mulwResponseWordIsTheProduct : Obligations.MulwResponseWordIsTheProduct := by
  intro c a b r hr
  rw [hr.unique (answers_mulw c a b), Response.word_toNat]
  exact mulw_toNat a b

/-- Settles O30: both functions reduce the same product modulo `2^32`. -/
theorem mulIsTheLowWordOfMulw : Obligations.MulIsTheLowWordOfMulw := by
  intro c a b r r' hr hr'
  rw [hr.unique (answers_mul c a b), hr'.unique (answers_mulw c a b)]
  rfl

/-- The wide product is the one pair that stands for the exact product. -/
theorem mulw_eq_of_toNat_eq {a b : Word} {p : WideProduct} (h : p.toNat = a.toNat * b.toNat) : mulw a b = p :=
  WideProduct.eq_of_toNat_eq ((mulw_toNat a b).trans h.symm)

/-- The high word of a product is at most `2^32 - 2` (R60). -/
theorem mulw_high_le (a b : Word) : (mulw a b).high ≤ 0xFFFFFFFE := by
  have hmul : a.toNat * b.toNat ≤ (2 ^ 32 - 1) * (2 ^ 32 - 1) :=
    Nat.mul_le_mul (Nat.le_pred_of_lt a.isLt) (Nat.le_pred_of_lt b.isLt)
  rw [BitVec.le_def, mulw_high_toNat]
  show a.toNat * b.toNat / 2 ^ 32 ≤ 2 ^ 32 - 2
  omega

/-- A single 1 bit, read as a number. -/
theorem one_shiftLeft_toNat {k : Nat} (hk : k < 32) : (1#32 <<< k).toNat = 2 ^ k := by
  rw [BitVec.toNat_shiftLeft, Nat.shiftLeft_eq, BitVec.toNat_ofNat, Nat.one_mod, Nat.one_mul,
    Nat.mod_eq_of_lt (Nat.pow_lt_pow_right Nat.one_lt_two hk)]

/-- The product with `2^k` is the word shifted left by `k` in 64 bits. -/
theorem mulw_two_pow (a : Word) {k : Nat} (hk : k ≤ 31) :
    mulw a (1#32 <<< k) = ⟨a >>> (32 - k), a <<< k⟩ := by
  have hsplit : 2 ^ 32 = 2 ^ k * 2 ^ (32 - k) := (pow_mul_pow_sub 2 (by omega)).symm
  have hhigh : a.toNat * 2 ^ k / 2 ^ 32 = a.toNat / 2 ^ (32 - k) := by
    rw [hsplit, Nat.mul_comm, Nat.mul_div_mul_left _ _ (Nat.two_pow_pos k)]
  apply mulw_eq_of_toNat_eq
  rw [WideProduct.toNat, one_shiftLeft_toNat (by omega), BitVec.toNat_ushiftRight, BitVec.toNat_shiftLeft,
    Nat.shiftRight_eq_div_pow, Nat.shiftLeft_eq, ← hhigh, Nat.div_add_mod']

/-- Settles O27: each law gives a pair that stands for the product. -/
theorem mulwLaws : Obligations.MulwLaws := by
  intro a b
  refine ⟨?_, ?_, ?_, mulw_high_le a b, fun k _ hk => mulw_two_pow a hk⟩
  · exact mulw_eq_of_toNat_eq ((mulw_toNat b a).trans (Nat.mul_comm _ _))
  · exact mulw_eq_of_toNat_eq (by simp [WideProduct.toNat])
  · exact mulw_eq_of_toNat_eq (by simp [WideProduct.toNat])

/-- A word is its two halves (R62). -/
theorem highHalf_lowHalf_toNat (a : Word) :
    a.toNat = (highHalf a).toNat * 2 ^ 16 + (lowHalf a).toNat ∧ (highHalf a).toNat < 2 ^ 16 ∧
    (lowHalf a).toNat < 2 ^ 16 := by
  have ha := a.isLt
  simp only [highHalf, lowHalf, BitVec.toNat_setWidth, BitVec.extractLsb'_toNat, Nat.shiftRight_eq_div_pow]
  omega

/-- The product of two halves fits a word, so `mul` cuts nothing off (R62). -/
theorem mul_toNat_of_lt {a b : Word} (ha : a.toNat < 2 ^ 16) (hb : b.toNat < 2 ^ 16) :
    (mul a b).toNat = a.toNat * b.toNat ∧ a.toNat * b.toNat ≤ (2 ^ 16 - 1) * (2 ^ 16 - 1) := by
  have hle : a.toNat * b.toNat ≤ (2 ^ 16 - 1) * (2 ^ 16 - 1) :=
    Nat.mul_le_mul (Nat.le_pred_of_lt ha) (Nat.le_pred_of_lt hb)
  rw [mul_toNat, Nat.mod_eq_of_lt (by omega)]
  exact ⟨rfl, hle⟩

/-- The accumulation of R62: with both carries taken into the high word, the pair stands for
`p11 * 2^32 + (p01 + p10) * 2^16 + p00`, if that fits 64 bits. -/
theorem accumulate_toNat {p00 p01 p10 p11 : Word}
    (hfit : p11.toNat * 2 ^ 32 + (p01.toNat + p10.toNat) * 2 ^ 16 + p00.toNat < 2 ^ 64) :
    let mid := p01 + p10
    let low := p00 + mid <<< 16
    (p11 + mid >>> 16 + carryOfSum mid p01 <<< 16 + carryOfSum low p00).toNat * 2 ^ 32 + low.toNat =
      p11.toNat * 2 ^ 32 + (p01.toNat + p10.toNat) * 2 ^ 16 + p00.toNat := by
  have h00 := p00.isLt
  have h01 := p01.isLt
  have h10 := p10.isLt
  intro mid low
  simp only [mid, low, BitVec.toNat_add, BitVec.toNat_shiftLeft, BitVec.toNat_ushiftRight, carryOfSum_toNat,
    Nat.shiftLeft_eq, Nat.shiftRight_eq_div_pow]
  split_ifs <;> omega

/-- Settles O28: the four products of halves add up to the product of the words. -/
theorem partialProductsRealiseMulw : Obligations.PartialProductsRealiseMulw := by
  intro a b
  obtain ⟨ha, ha1, ha0⟩ := highHalf_lowHalf_toNat a
  obtain ⟨hb, hb1, hb0⟩ := highHalf_lowHalf_toNat b
  have hsum : (mul (highHalf a) (highHalf b)).toNat * 2 ^ 32 +
      ((mul (lowHalf a) (highHalf b)).toNat + (mul (highHalf a) (lowHalf b)).toNat) * 2 ^ 16 +
      (mul (lowHalf a) (lowHalf b)).toNat = a.toNat * b.toNat := by
    rw [(mul_toNat_of_lt ha1 hb1).1, (mul_toNat_of_lt ha0 hb1).1, (mul_toNat_of_lt ha1 hb0).1,
      (mul_toNat_of_lt ha0 hb0).1, ha, hb]
    ring
  refine (mulw_eq_of_toNat_eq ?_).symm
  rw [← hsum]
  exact accumulate_toNat (hsum ▸ word_mul_lt a b)

theorem trunc32_toNat_self (a : Word) : trunc32 a.toNat = a := BitVec.ofNat_toNat 32 a |>.trans (BitVec.setWidth_eq a)

theorem trunc32_add (m n : Nat) : trunc32 (m + n) = trunc32 m + trunc32 n := BitVec.ofNat_add m n

theorem trunc32_mul (m n : Nat) : trunc32 (m * n) = trunc32 m * trunc32 n := BitVec.ofNat_mul m n

theorem mul_eq_mul (a b : Word) : mul a b = a * b := by
  rw [mul, trunc32_mul, trunc32_toNat_self, trunc32_toNat_self]

/-- The loop adds the multiplicand times the multiplier bits it has seen (R65). -/
theorem shiftAddLoop_fst (k : Nat) (acc m q : Word) :
    (shiftAddLoop k (acc, m, q)).1 = acc + m * trunc32 (q.toNat % 2 ^ k) := by
  induction k generalizing acc m q with
  | zero => simp [shiftAddLoop, Nat.mod_one, trunc32]
  | succ k ih =>
    have hbit : (if q.getLsbD 0 then acc + m else acc) = acc + m * trunc32 (q.toNat % 2) := by
      obtain h | h := Nat.mod_two_eq_zero_or_one q.toNat
      · simp [BitVec.getLsbD, Nat.testBit_zero, h, trunc32]
      · simp [BitVec.getLsbD, Nat.testBit_zero, h, trunc32]
    have hmod : q.toNat % 2 ^ (k + 1) = q.toNat % 2 + 2 * ((q >>> 1).toNat % 2 ^ k) := by
      rw [Nat.pow_succ', Nat.mod_mul, BitVec.toNat_ushiftRight, Nat.shiftRight_one]
    have hdouble : m <<< 1 = m * trunc32 2 := BitVec.shiftLeft_eq_mul_twoPow m 1
    rw [shiftAddLoop, ih, hbit, hmod, trunc32_add, trunc32_mul, hdouble]
    ring

/-- Settles O31: after 32 iterations all bits of the multiplier are added. -/
theorem shiftAddRealisesMul : Obligations.ShiftAddRealisesMul := by
  intro a b
  rw [shiftAddMul, shiftAddLoop_fst, Nat.mod_eq_of_lt b.isLt, trunc32_toNat_self, mul_eq_mul]
  exact BitVec.zero_add _

end Sys2Proof.Machine
end

section
/-! SUPPORT. Proofs: quotient and remainder together, and the restoring divider (42_divide.md). -/

namespace Sys2Proof.Machine

open Sys2Proof.Safety

/-- Settles O34: the two answers are quotient and remainder, or 0 and 0 for a zero divisor. -/
theorem divModInvariant : Obligations.DivModInvariant := by
  intro c a b q m hq hm
  rw [hq.unique (answers_div c a b), hm.unique (answers_mod c a b)]
  refine ⟨fun hb => ?_, ?_⟩
  · have hpos : 0 < b.toNat := Nat.pos_of_ne_zero (BitVec.toNat_ne_iff_ne.mpr hb)
    rw [BitVec.lt_def, div_toNat a hb, mod_toNat a hb]
    exact ⟨Nat.div_add_mod' _ _, Nat.mod_lt _ hpos⟩
  · rintro rfl
    rw [div_zero_right, mod_zero_right]
    exact eq_comm.trans (BitVec.toNat_eq (y := (0 : Word))).symm

/-- Long division by one more bit, where the divisor fits into the extended remainder: the quotient bit is 1. -/
theorem div_mod_two_mul_add_of_le {b n bit : Nat} (hb : 0 < b) (hbit : bit < 2) (h : b ≤ 2 * (n % b) + bit) :
    (2 * n + bit) / b = 2 * (n / b) + 1 ∧ (2 * n + bit) % b = 2 * (n % b) + bit - b := by
  have hn := Nat.div_add_mod n b
  have hr := Nat.mod_lt n hb
  rw [Nat.div_mod_unique hb, Nat.mul_add, Nat.mul_left_comm]
  omega

/-- Long division by one more bit, where the divisor does not fit: the quotient bit is 0. -/
theorem div_mod_two_mul_add_of_lt {b n bit : Nat} (hb : 0 < b) (h : 2 * (n % b) + bit < b) :
    (2 * n + bit) / b = 2 * (n / b) ∧ (2 * n + bit) % b = 2 * (n % b) + bit := by
  have hn := Nat.div_add_mod n b
  rw [Nat.div_mod_unique hb, Nat.mul_left_comm]
  omega

/-- What stands in quotient and remainder when the dividend bits from `k` on are done (R70). -/
def RestoringInv (a b : Word) (k : Nat) (st : Word × Word) : Prop :=
  st.1.toNat = a.toNat / 2 ^ k / b.toNat * 2 ^ k ∧ st.2.toNat = a.toNat / 2 ^ k % b.toNat

theorem restoringInv_start (a b : Word) : RestoringInv a b 32 (0#32, 0#32) := by
  rw [RestoringInv, Nat.div_eq_of_lt a.isLt]
  simp

/-- The next dividend bit is shifted into a remainder that has room for it. -/
theorem shiftIn_toNat {r : Word} (hr : r.toNat < 2 ^ 31) (bit : Bool) :
    (r <<< 1 ||| if bit then 1#32 else 0#32).toNat = 2 * r.toNat + bit.toNat := by
  have hshift : (r <<< 1).toNat = r.toNat <<< 1 := by
    rw [BitVec.toNat_shiftLeft, Nat.mod_eq_of_lt (by rw [Nat.shiftLeft_eq]; omega)]
  have hbit : (if bit then 1#32 else 0#32).toNat = bit.toNat := by cases bit <;> rfl
  rw [BitVec.toNat_or, hshift, hbit, ← Nat.shiftLeft_add_eq_or_of_lt (Bool.toNat_lt bit), Nat.shiftLeft_eq,
    Nat.mul_comm, Nat.pow_one]

/-- Setting bit `k` of a quotient that holds the bits above `k` only. -/
theorem setBit_toNat {quo : Word} {m k : Nat} (hk : k < 32) (hquo : quo.toNat = m * 2 ^ (k + 1)) :
    (quo ||| 1#32 <<< k).toNat = (2 * m + 1) * 2 ^ k := by
  rw [BitVec.toNat_or, one_shiftLeft_toNat hk, hquo, ← Nat.shiftLeft_eq,
    ← Nat.shiftLeft_add_eq_or_of_lt (Nat.pow_lt_pow_right Nat.one_lt_two (Nat.lt_add_one k)), Nat.shiftLeft_eq]
  ring

/-- One iteration takes the invariant down by one dividend bit. -/
theorem restoringStep_keeps_inv {a b : Word} (hb : 0 < b.toNat) {k : Nat} (hk : k < 32) {st : Word × Word}
    (h : RestoringInv a b (k + 1) st) : RestoringInv a b k (restoringStep a b k st) := by
  obtain ⟨hquo, hrem⟩ := h
  have hhalf : a.toNat / 2 ^ (k + 1) = a.toNat / 2 ^ k / 2 := by rw [Nat.pow_succ, Nat.div_div_eq_div_mul]
  have hbits : a.toNat / 2 ^ k = 2 * (a.toNat / 2 ^ (k + 1)) + (a.getLsbD k).toNat := by
    rw [BitVec.getLsbD, Nat.toNat_testBit, hhalf, Nat.div_add_mod]
  have hroom : st.2.toNat < 2 ^ 31 := by
    have hle : a.toNat / 2 ^ k ≤ a.toNat := Nat.div_le_self _ _
    have hmod : st.2.toNat ≤ a.toNat / 2 ^ (k + 1) := hrem.trans_le (Nat.mod_le _ _)
    omega
  have hbit := Bool.toNat_lt (a.getLsbD k)
  have hshift := shiftIn_toNat hroom (a.getLsbD k)
  rw [hrem] at hshift
  rw [RestoringInv, hbits, restoringStep]
  generalize (st.2 <<< 1 ||| if a.getLsbD k then 1#32 else 0#32) = rem at hshift ⊢
  by_cases hle : b ≤ rem
  · obtain ⟨hdiv, hmod⟩ := div_mod_two_mul_add_of_le hb hbit (hshift.le.trans' (BitVec.le_def.mp hle))
    rw [if_pos hle, hdiv, hmod, ← hshift]
    exact ⟨setBit_toNat hk hquo, BitVec.toNat_sub_of_le hle⟩
  · obtain ⟨hdiv, hmod⟩ := div_mod_two_mul_add_of_lt hb (hshift.ge.trans_lt (BitVec.lt_def.mp (BitVec.not_le.mp hle)))
    rw [if_neg hle, hdiv, hmod, ← hshift, hquo, Nat.pow_succ]
    exact ⟨by ring, rfl⟩

/-- The remaining iterations take the invariant down to bit 0. -/
theorem restoringLoop_keeps_inv {a b : Word} (hb : 0 < b.toNat) {k : Nat} (hk : k ≤ 32) {st : Word × Word}
    (h : RestoringInv a b k st) : RestoringInv a b 0 (restoringLoop a b k st) := by
  induction k generalizing st with
  | zero => exact h
  | succ k ih => exact ih (by omega) (restoringStep_keeps_inv hb hk h)

/-- Settles O35: the guard is the zero divisor's case, and at bit 0 the invariant is quotient and remainder. -/
theorem restoringLoopRealisesDivision : Obligations.RestoringLoopRealisesDivision := by
  intro a b
  by_cases hb : b = 0
  · rw [hb, div_zero_right, mod_zero_right]
    rfl
  · have hpos : 0 < b.toNat := Nat.pos_of_ne_zero (BitVec.toNat_ne_iff_ne.mpr hb)
    obtain ⟨hquo, hrem⟩ := restoringLoop_keeps_inv hpos le_rfl (restoringInv_start a b)
    rw [Nat.pow_zero, Nat.div_one] at hquo hrem
    refine (if_neg hb).trans ?_
    refine Prod.ext (BitVec.eq_of_toNat_eq ?_) (BitVec.eq_of_toNat_eq ?_)
    · rw [hquo, div_toNat a hb, Nat.mul_one]
    · rw [hrem, mod_toNat a hb]

end Sys2Proof.Machine
end

section
/-! SUPPORT. Proofs: the fraction of a word in its bucket, read as a number (43_seed_interpolator.md). -/

namespace Sys2Proof.Machine

/-- The bits strictly below bit `e` are the remainder by `2^e` (R77). -/
theorem mantissa_toNat (e : Fin 32) (x : Word) : (mantissa e x).toNat = x.toNat % 2 ^ e.val := by
  have hpow : 2 ^ e.val < 2 ^ 32 := Nat.pow_lt_pow_right Nat.one_lt_two e.isLt
  rw [mantissa, BitVec.toNat_and, BitVec.toNat_ofNat, Nat.mod_eq_of_lt (by omega), Nat.and_two_pow_sub_one_eq_mod]

/-- Shifted left into the 16-bit field, a word keeps its bits below bit `k` (R77). -/
theorem field_shiftLeft_toNat (x : Word) {k : Nat} (hk : k ≤ 16) :
    ((x <<< (16 - k)).extractLsb' 0 16).toNat = x.toNat % 2 ^ k * 2 ^ (16 - k) := by
  rw [BitVec.extractLsb'_toNat, Nat.shiftRight_zero, BitVec.toNat_shiftLeft,
    Nat.mod_mod_of_dvd _ (Nat.pow_dvd_pow 2 (by decide)), Nat.shiftLeft_eq, ← Nat.mul_mod_mul_right,
    pow_mul_pow_sub 2 hk]

/-- Shifted right into the 16-bit field, a word keeps the upper 16 of its bits below bit `k` (R77). -/
theorem field_shiftRight_toNat (x : Word) {k : Nat} (hk : 16 ≤ k) :
    ((x >>> (k - 16)).extractLsb' 0 16).toNat = x.toNat % 2 ^ k / 2 ^ (k - 16) := by
  rw [BitVec.extractLsb'_toNat, Nat.shiftRight_zero, BitVec.toNat_ushiftRight, Nat.shiftRight_eq_div_pow,
    ← Nat.mod_mul_right_div_self, Nat.mul_comm, pow_mul_pow_sub 2 hk]

/-- Below bucket 16 the shift drops what the mask drops (R78). -/
theorem frac_eq_of_lt {e : Fin 32} (he : e.val < 16) (x : Word) :
    frac e x = (x <<< (16 - e.val)).extractLsb' 0 16 := by
  rw [frac, if_pos he]
  apply BitVec.eq_of_toNat_eq
  rw [field_shiftLeft_toNat _ he.le, field_shiftLeft_toNat _ he.le, mantissa_toNat, Nat.mod_mod]

/-- From bucket 16 on the field takes no bit that the mask drops (R78). -/
theorem frac_eq_of_le {e : Fin 32} (he : 16 ≤ e.val) (x : Word) :
    frac e x = (x >>> (e.val - 16)).extractLsb' 0 16 := by
  rw [frac, if_neg (Nat.not_lt.mpr he)]
  apply BitVec.eq_of_toNat_eq
  rw [field_shiftRight_toNat _ he, field_shiftRight_toNat _ he, mantissa_toNat, Nat.mod_mod]

/-- In its bucket a word's bits below bit `e` are its distance from the lower end. -/
theorem mod_two_pow_of_mem {x : Word} {k : Nat} (hlo : 2 ^ k ≤ x.toNat) (hhi : x.toNat < 2 ^ (k + 1)) :
    x.toNat % 2 ^ k = x.toNat - 2 ^ k := by
  rw [Nat.mod_eq_sub_mod hlo, Nat.mod_eq_of_lt (by omega)]

/-- Up to bucket 16 the fraction is exact (R77). -/
theorem frac_toNat_of_le {e : Fin 32} (he : e.val ≤ 16) {x : Word} (hlo : 2 ^ e.val ≤ x.toNat)
    (hhi : x.toNat < 2 ^ (e.val + 1)) : (frac e x).toNat = (x.toNat - 2 ^ e.val) * 2 ^ (16 - e.val) := by
  rw [← mod_two_pow_of_mem hlo hhi]
  obtain hlt | heq := he.lt_or_eq
  · rw [frac_eq_of_lt hlt, field_shiftLeft_toNat x he]
  · rw [frac_eq_of_le heq.ge, field_shiftRight_toNat x heq.ge, heq, Nat.sub_self, Nat.pow_zero, Nat.div_one,
      Nat.mul_one]

/-- From bucket 16 on the fraction is truncated (R77). -/
theorem frac_toNat_of_ge {e : Fin 32} (he : 16 ≤ e.val) {x : Word} (hlo : 2 ^ e.val ≤ x.toNat)
    (hhi : x.toNat < 2 ^ (e.val + 1)) : (frac e x).toNat = (x.toNat - 2 ^ e.val) / 2 ^ (e.val - 16) := by
  rw [frac_eq_of_le he, field_shiftRight_toNat x he, mod_two_pow_of_mem hlo hhi]

/-- The fraction is the position in the bucket to 16 fractional bits (R78). -/
theorem frac_toNat {e : Fin 32} {x : Word} (hlo : 2 ^ e.val ≤ x.toNat) (hhi : x.toNat < 2 ^ (e.val + 1)) :
    (frac e x).toNat = (x.toNat - 2 ^ e.val) * 2 ^ 16 / 2 ^ e.val := by
  obtain he | he := Nat.le_total e.val 16
  · rw [frac_toNat_of_le he hlo hhi, ← pow_mul_pow_sub 2 he, Nat.mul_left_comm,
      Nat.mul_div_cancel_left _ (Nat.two_pow_pos _)]
  · rw [frac_toNat_of_ge he hlo hhi, ← pow_mul_pow_sub 2 he, Nat.mul_comm (2 ^ 16),
      Nat.mul_div_mul_right _ _ (Nat.two_pow_pos 16)]

/-- The bucket of the single word 1 has no position but 0 (R78). -/
theorem frac_zero (x : Word) : frac 0 x = 0 := by
  apply BitVec.eq_of_toNat_eq
  rw [frac_eq_of_lt (by decide), field_shiftLeft_toNat x (by decide)]
  simp [Nat.mod_one]

/-- Settles O37: both forms of the field, and with them its number. -/
theorem fracIsThePositionInTheBucket : Obligations.FracIsThePositionInTheBucket := by
  intro e x
  exact ⟨frac_toNat, fun he => frac_eq_of_lt he x, fun he => frac_eq_of_le he x, frac_zero x⟩

/-- Within a bucket the fraction does not decrease. -/
theorem frac_mono {e : Fin 32} {x x' : Word} (hlo : 2 ^ e.val ≤ x.toNat) (hle : x.toNat ≤ x'.toNat)
    (hhi : x'.toNat < 2 ^ (e.val + 1)) : frac e x ≤ frac e x' := by
  rw [BitVec.le_def, frac_toNat hlo (hle.trans_lt hhi), frac_toNat (hlo.trans hle) hhi]
  exact Nat.div_le_div_right (Nat.mul_le_mul_right _ (Nat.sub_le_sub_right hle _))

/-- Up to bucket 16 no two words of a bucket share a fraction. -/
theorem frac_strictMono {e : Fin 32} (he : e.val ≤ 16) {x x' : Word} (hlo : 2 ^ e.val ≤ x.toNat)
    (hlt : x.toNat < x'.toNat) (hhi : x'.toNat < 2 ^ (e.val + 1)) : frac e x < frac e x' := by
  rw [BitVec.lt_def, frac_toNat_of_le he hlo (hlt.trans hhi), frac_toNat_of_le he (hlo.trans hlt.le) hhi]
  exact Nat.mul_lt_mul_of_pos_right (Nat.sub_lt_sub_right hlo hlt) (Nat.two_pow_pos _)

/-- Up to bucket 16 the last word of the bucket has this fraction. -/
theorem frac_toNat_last {e : Fin 32} (he : e.val ≤ 16) {x : Word} (hx : x.toNat = 2 ^ (e.val + 1) - 1) :
    (frac e x).toNat = 2 ^ 16 - 2 ^ (16 - e.val) := by
  have hpow := Nat.two_pow_pos e.val
  have hsplit := pow_mul_pow_sub 2 he
  have hlast : x.toNat - 2 ^ e.val = 2 ^ e.val - 1 := by omega
  rw [frac_toNat_of_le he (by omega) (by omega), hlast, Nat.sub_one_mul, hsplit]

/-- In every bucket the fraction is at most this, which is 65535 from bucket 16 on. -/
theorem frac_toNat_le {e : Fin 32} {x : Word} (hlo : 2 ^ e.val ≤ x.toNat) (hhi : x.toNat < 2 ^ (e.val + 1)) :
    (frac e x).toNat ≤ 2 ^ 16 - 2 ^ (16 - e.val) := by
  obtain he | he := Nat.le_total e.val 16
  · have hlast : x.toNat - 2 ^ e.val ≤ 2 ^ e.val - 1 := by omega
    calc (frac e x).toNat = (x.toNat - 2 ^ e.val) * 2 ^ (16 - e.val) := frac_toNat_of_le he hlo hhi
      _ ≤ (2 ^ e.val - 1) * 2 ^ (16 - e.val) := Nat.mul_le_mul_right _ hlast
      _ = 2 ^ 16 - 2 ^ (16 - e.val) := by rw [Nat.sub_one_mul, pow_mul_pow_sub 2 he]
  · rw [Nat.sub_eq_zero_of_le he]
    exact Nat.le_of_lt_succ (frac e x).isLt

/-- From bucket 16 on the words with the largest fraction are the last `2^(e - 16)` of the bucket. -/
theorem frac_toNat_eq_max_iff {e : Fin 32} (he : 16 ≤ e.val) {x : Word} (hlo : 2 ^ e.val ≤ x.toNat)
    (hhi : x.toNat < 2 ^ (e.val + 1)) :
    (frac e x).toNat = 65535 ↔ 2 ^ (e.val + 1) - 2 ^ (e.val - 16) ≤ x.toNat := by
  have hsplit : 2 ^ 16 * 2 ^ (e.val - 16) = 2 ^ e.val := pow_mul_pow_sub 2 he
  have hmax : (frac e x).toNat = 65535 ↔ 65535 ≤ (frac e x).toNat := by omega
  rw [hmax, frac_toNat_of_ge he hlo hhi, Nat.le_div_iff_mul_le (Nat.two_pow_pos _)]
  omega

/-- Settles O38: the order of the fraction, and its largest value on both sides of bucket 16. -/
theorem fracOrderAndLargestValue : Obligations.FracOrderAndLargestValue := by
  intro e x x' hlo hlt hhi
  have hlt' := BitVec.lt_def.mp hlt
  have hlo' := hlo.trans hlt'.le
  exact ⟨frac_mono hlo hlt'.le hhi, fun he => frac_strictMono he hlo hlt' hhi,
    fun he => ⟨frac_toNat_le hlo' hhi, frac_toNat_last he⟩, fun he => frac_toNat_eq_max_iff he hlo' hhi⟩

end Sys2Proof.Machine
end

section
/-! SUPPORT. Proofs: the interpolated seed between the two entries of its bucket (43_seed_interpolator.md). -/

namespace Sys2Proof.Machine

/-- The two reads of every bucket do not increase, and none is above 1.0: what R79 and R80 use of a table. -/
def Descends (t : SeedTable) : Prop := ∀ e : Fin 32, seedNext t e ≤ seed t e ∧ (seed t e).toNat ≤ 65536

/-- The entries of an admissible table are at most its first one (R21). -/
theorem seed_toNat_le_of_admissible {t : SeedTable} (hanch : t.Anchored) (hmono : t.NonIncreasing) (k : Nat)
    (hk : k < 32) : (t[k]).toNat ≤ 65536 := by
  induction k with
  | zero => exact (congrArg BitVec.toNat hanch).le
  | succ k ih => exact (BitVec.le_def.mp (hmono ⟨k, by omega⟩)).trans (ih (by omega))

/-- With a last entry of at least 1, the constant successor, an admissible table descends in the top bucket too. -/
theorem descends_of_admissible {t : SeedTable} (hanch : t.Anchored) (hmono : t.NonIncreasing)
    (hlast : 1 ≤ t[31].toNat) : Descends t := by
  intro e
  refine ⟨?_, seed_toNat_le_of_admissible hanch hmono e.val e.isLt⟩
  by_cases he : e.val + 1 < 32
  · rw [seedNext_eq_getElem t e he]
    exact hmono ⟨e.val, by omega⟩
  · have htop : e = 31 := Fin.ext (by omega)
    rw [seedNext_top t e (by omega), htop]
    exact BitVec.le_def.mpr hlast

/-- The interpolated seed as a number, for every table (R76). -/
theorem interp_toNat (t : SeedTable) (e : Fin 32) (x : Word) : (interp t e x).toNat =
    (2 ^ 32 + (seed t e).toNat - (delta t e).toNat * (frac e x).toNat % 2 ^ 32 / 2 ^ 16) % 2 ^ 32 := by
  have hfrac : ((frac e x).setWidth 32).toNat = (frac e x).toNat :=
    BitVec.toNat_setWidth_of_le (by decide)
  rw [interp, BitVec.toNat_sub, BitVec.toNat_ushiftRight, mul_toNat, hfrac, Nat.shiftRight_eq_div_pow]
  omega

/-- The distance between the entries as a number, for every table (R76). -/
theorem delta_toNat (t : SeedTable) (e : Fin 32) :
    (delta t e).toNat = (2 ^ 32 + (seed t e).toNat - (seedNext t e).toNat) % 2 ^ 32 := by
  rw [delta, BitVec.toNat_sub]
  omega

/-- What the interpolator subtracts is a part of the distance, and less than it when there is one (R79). -/
theorem delta_mul_frac_div_le (t : SeedTable) (e : Fin 32) (x : Word) :
    (delta t e).toNat * (frac e x).toNat / 65536 ≤ (delta t e).toNat - 1 := by
  have hfrac := (frac e x).isLt
  obtain hd | hd := Nat.eq_zero_or_pos (delta t e).toNat
  · rw [hd, Nat.zero_mul]
  · have hlt : (delta t e).toNat * (frac e x).toNat < (delta t e).toNat * 65536 := Nat.mul_lt_mul_of_pos_left hfrac hd
    exact Nat.le_sub_one_of_lt ((Nat.div_lt_iff_lt_mul (by decide)).mpr hlt)

section
variable {t : SeedTable} (ht : Descends t) (e : Fin 32) (x : Word)
include ht

theorem delta_toNat_of_descends : (delta t e).toNat = (seed t e).toNat - (seedNext t e).toNat :=
  BitVec.toNat_sub_of_le (ht e).1

theorem delta_toNat_le : (delta t e).toNat ≤ 65536 := by
  rw [delta_toNat_of_descends ht]
  exact (Nat.sub_le _ _).trans (ht e).2

/-- The product of the interpolator fits a word (R80). -/
theorem delta_mul_frac_lt : (delta t e).toNat * (frac e x).toNat < 2 ^ 32 :=
  calc (delta t e).toNat * (frac e x).toNat
      ≤ 65536 * 65535 := Nat.mul_le_mul (delta_toNat_le ht e) (Nat.le_of_lt_succ (frac e x).isLt)
    _ < 2 ^ 32 := by norm_num

/-- Nothing wraps in the interpolator, so its value is the one in natural numbers (R80). -/
theorem interp_toNat_of_descends : (interp t e x).toNat =
    (seed t e).toNat - (delta t e).toNat * (frac e x).toNat / 65536 := by
  have hseed := (seed t e).isLt
  have hsub := delta_mul_frac_div_le t e x
  have hdelta := delta_toNat_of_descends ht e
  rw [interp_toNat, Nat.mod_eq_of_lt (delta_mul_frac_lt ht e x)]
  omega

theorem interp_le_seed : interp t e x ≤ seed t e := by
  rw [BitVec.le_def, interp_toNat_of_descends ht]
  exact Nat.sub_le _ _

theorem seedNext_lt_interp (hd : 1 ≤ (delta t e).toNat) : (seedNext t e).toNat + 1 ≤ (interp t e x).toNat := by
  have hsub := delta_mul_frac_div_le t e x
  have hdelta := delta_toNat_of_descends ht e
  rw [interp_toNat_of_descends ht]
  omega

theorem interp_eq_seed (h : frac e x = 0 ∨ delta t e = 0) : interp t e x = seed t e := by
  apply BitVec.eq_of_toNat_eq
  rw [interp_toNat_of_descends ht]
  obtain h | h := h
  · simp [h]
  · simp [h]

theorem seedNext_le_interp : seedNext t e ≤ interp t e x := by
  obtain hd | hd := Nat.eq_zero_or_pos (delta t e).toNat
  · rw [interp_eq_seed ht e x (.inr (BitVec.eq_of_toNat_eq hd))]
    exact (ht e).1
  · exact BitVec.le_def.mpr (Nat.le_of_succ_le (seedNext_lt_interp ht e x hd))

theorem interp_antitone {x' : Word} (h : frac e x ≤ frac e x') : interp t e x' ≤ interp t e x := by
  rw [BitVec.le_def, interp_toNat_of_descends ht, interp_toNat_of_descends ht]
  exact Nat.sub_le_sub_left (Nat.div_le_div_right (Nat.mul_le_mul_left _ (BitVec.le_def.mp h))) _

end

/-- Settles O39: an admissible table with a nonzero last entry descends, and then nothing wraps. -/
theorem interpolatedSeedBounds : Obligations.InterpolatedSeedBounds := by
  intro t hanch hmono hlast e x
  have ht := descends_of_admissible hanch hmono hlast
  exact ⟨fun h => interp_eq_seed ht e x (.inl h), seedNext_le_interp ht e x, interp_le_seed ht e x,
    seedNext_lt_interp ht e x, fun _ => interp_antitone ht e x,
    (BitVec.le_def.mp (interp_le_seed ht e x)).trans (ht e).2⟩

theorem descends_defaultSeed : Descends defaultSeed :=
  descends_of_admissible (by decide) (by decide) (by decide)

/-- The largest product of each bucket of the default table, at the bucket's largest fraction (95 section 3.7). -/
theorem default_delta_mul_maxFrac_le :
    ∀ e : Fin 32, (delta defaultSeed e).toNat * (2 ^ 16 - 2 ^ (16 - e.val)) ≤ 471760896 := by decide

/-- Settles O40: the bounds of a descending table, and the largest product bucket by bucket. -/
theorem interpolationProductDoesNotWrap : Obligations.InterpolationProductDoesNotWrap := by
  refine ⟨fun t hanch hmono hlast e x => ?_, fun x hx _ => ?_, by decide⟩
  · have ht := descends_of_admissible hanch hmono hlast
    refine ⟨delta_toNat_le ht e, delta_mul_frac_lt ht e x, ?_⟩
    rw [interp_toNat_of_descends ht, delta_toNat_of_descends ht]
  · obtain ⟨hlo, hhi⟩ := two_pow_bucket_le_and_lt hx
    exact (Nat.mul_le_mul_left _ (frac_toNat_le hlo hhi)).trans (default_delta_mul_maxFrac_le (bucket x))

end Sys2Proof.Machine
end

section
/-! SUPPORT. Proofs: the refiner in exact arithmetic, its fixed points, and its word-level realisation
(44_newton_refiner.md). -/

namespace Sys2Proof.Machine

theorem xy2_toNat (y x : Word) : (xy2 y x).toNat = x.toNat * square y / 2 ^ 16 % 2 ^ 32 := trunc32_toNat _

theorem term_toNat (y x : Word) : (term y x).toNat = (2 ^ 32 + 0x00030000 - (xy2 y x).toNat) % 2 ^ 32 := by
  have hthree : threeQ16.toNat = 0x00030000 := rfl
  rw [term, BitVec.toNat_sub, hthree]
  omega

theorem newton_toNat (y x : Word) :
    (newton y x).toNat = (y.toNat * (term y x).toNat + 2 ^ 16) / 2 ^ 17 % 2 ^ 32 := trunc32_toNat _

/-- Settles O41: each step's value is the exact one, reduced modulo `2^32`. -/
theorem newtonStepInExactArithmetic : Obligations.NewtonStepInExactArithmetic := by
  intro y x
  exact ⟨xy2_toNat y x, term_toNat y x, newton_toNat y x⟩

/-- When `x y²` is 1.0 the last step multiplies by 2 and halves, so the bias is cut off (R92). -/
theorem newton_eq_self_of_xy2 {y x : Word} (h : xy2 y x = 65536) : term y x = 131072 ∧ newton y x = y := by
  have hterm : term y x = 131072 := by
    rw [term, h]
    rfl
  have htermNat : (term y x).toNat = 131072 := congrArg BitVec.toNat hterm
  refine ⟨hterm, BitVec.eq_of_toNat_eq ?_⟩
  rw [newton_toNat, htermNat]
  omega

/-- Settles O42: the exact seeds have `x y²` equal to 1.0, and with seed 0 the bias alone is cut off. -/
theorem newtonFixedPoints : Obligations.NewtonFixedPoints := by
  have hexact : ∀ k : Fin 16, 4 ^ k.val * square (trunc32 (2 ^ (16 - k.val))) = 2 ^ 32 ∧
      xy2 (trunc32 (2 ^ (16 - k.val))) (trunc32 (4 ^ k.val)) = 65536 := by decide
  refine ⟨fun y x => newton_eq_self_of_xy2, fun k => ?_, fun x => ?_⟩
  · obtain ⟨hsquare, hxy⟩ := hexact k
    exact ⟨hsquare, (newton_eq_self_of_xy2 hxy).2⟩
  · have hxy : xy2 0 x = 0 := by simp [xy2, square, trunc32]
    have hterm : term 0 x = 0x00030000 := by
      rw [term, hxy]
      rfl
    exact ⟨hxy, hterm, by simp [product], by simp [newton, product]; rfl⟩

/-- Words `high` and `low` shifted right together by `k` bits, into one word (R90). -/
theorem shiftRight_pair_toNat (high low : Word) {j k : Nat} (h : j + k = 32) :
    (high <<< j ||| low >>> k).toNat = (high.toNat * 2 ^ 32 + low.toNat) / 2 ^ k % 2 ^ 32 := by
  have hbits : high <<< j ||| low >>> k = (high ++ low).extractLsb' k 32 := by
    apply BitVec.eq_of_getLsbD_eq
    intro i hi
    simp only [BitVec.getLsbD_or, BitVec.getLsbD_shiftLeft, BitVec.getLsbD_ushiftRight, BitVec.getLsbD_extractLsb',
      BitVec.getLsbD_append, hi, decide_true, Bool.true_and]
    by_cases hlow : i < j
    · simp [hlow, show k + i < 32 by omega]
    · simp [hlow, BitVec.getLsbD_of_ge low (k + i) (by omega), show ¬ k + i < 32 by omega,
        show k + i - 32 = i - j by omega]
  rw [hbits, BitVec.extractLsb'_toNat, BitVec.toNat_append, ← Nat.shiftLeft_add_eq_or_of_lt low.isLt, Nat.shiftLeft_eq,
    Nat.shiftRight_eq_div_pow]

/-- The first two multiplications of R90, with the correction for a square of `2^32`. -/
def wordXy2 (y x : Word) : Word :=
  let p2 := mulw x (mulw y y).low
  let base := p2.high <<< 16 ||| p2.low >>> 16
  if (mulw y y).high = 0#32 then base else base + x <<< 16

/-- The bias and the closing shift of R90 on the third product. -/
def wordRound (p : WideProduct) : Word :=
  let s := p.low + 0x00010000#32
  (p.high + carryOfSum s p.low) <<< 15 ||| s >>> 17

theorem wordNewton_eq (y x : Word) : wordNewton y x = wordRound (mulw y (threeQ16 - wordXy2 y x)) := rfl

/-- Up to seed 65536 the square has at most one bit above its low word, and that only when the low word is 0. -/
theorem wordXy2_eq_xy2 {y : Word} (hy : y.toNat ≤ 65536) (x : Word) : wordXy2 y x = xy2 y x := by
  have hsquare : y.toNat * y.toNat ≤ 2 ^ 32 := (Nat.mul_le_mul hy hy).trans (by norm_num)
  have hhigh := mulw_high_toNat y y
  have hlow := mulw_low_toNat y y
  have hbase : ((mulw x (mulw y y).low).high <<< 16 ||| (mulw x (mulw y y).low).low >>> 16).toNat =
      x.toNat * (mulw y y).low.toNat / 2 ^ 16 % 2 ^ 32 := by
    rw [shiftRight_pair_toNat _ _ (by decide)]
    exact congrArg (· / 2 ^ 16 % 2 ^ 32) (mulw_toNat x (mulw y y).low)
  apply BitVec.eq_of_toNat_eq
  rw [xy2_toNat, square, wordXy2]
  obtain hlt | heq := hsquare.lt_or_eq
  · rw [Nat.mod_eq_of_lt hlt] at hlow
    rw [if_pos (BitVec.eq_of_toNat_eq (by rw [hhigh, Nat.div_eq_of_lt hlt]; rfl)), hbase, hlow]
  · rw [heq] at hlow hhigh ⊢
    have hne : (mulw y y).high ≠ 0#32 := fun h0 => absurd (hhigh.symm.trans (congrArg BitVec.toNat h0)) (by decide)
    rw [if_neg hne, BitVec.toNat_add, hbase, hlow, BitVec.toNat_shiftLeft, Nat.shiftLeft_eq]
    omega

/-- The closing steps round a product that leaves room for the bias (R90). -/
theorem wordRound_toNat {p : WideProduct} (hp : p.toNat + 2 ^ 16 < 2 ^ 64) :
    (wordRound p).toNat = (p.toNat + 2 ^ 16) / 2 ^ 17 % 2 ^ 32 := by
  have hcarry : (p.high + carryOfSum (p.low + 0x00010000#32) p.low).toNat * 2 ^ 32 +
      (p.low + 0x00010000#32).toNat = p.toNat + 2 ^ 16 := by
    have hlow := p.low.isLt
    rw [WideProduct.toNat] at hp ⊢
    rw [BitVec.toNat_add p.high, carryOfSum_toNat, BitVec.toNat_add, BitVec.toNat_ofNat]
    split_ifs <;> omega
  rw [wordRound, shiftRight_pair_toNat _ _ (by decide), hcarry]

/-- Settles O43: up to seed 65536 the word-level `x y²` is the exact one and the third product leaves room for the
bias. -/
theorem wordLevelRefinerRealisesNewton : Obligations.WordLevelRefinerRealisesNewton := by
  intro y x hy
  have hroom : (mulw y (term y x)).toNat + 2 ^ 16 < 2 ^ 64 :=
    calc (mulw y (term y x)).toNat + 2 ^ 16 = y.toNat * (term y x).toNat + 2 ^ 16 := by rw [mulw_toNat]
      _ ≤ 65536 * 2 ^ 32 + 2 ^ 16 := Nat.add_le_add_right (Nat.mul_le_mul hy (term y x).isLt.le) _
      _ < 2 ^ 64 := by norm_num
  apply BitVec.eq_of_toNat_eq
  rw [wordNewton_eq, wordXy2_eq_xy2 hy, ← term, wordRound_toNat hroom, mulw_toNat, newton_toNat]

end Sys2Proof.Machine
end

section
/-! SUPPORT. Proofs: RSQRT in natural numbers, for every table (45_reciprocal_sqrt.md). -/

namespace Sys2Proof.Machine

theorem seedNext_toNat (t : SeedTable) (e : Fin 32) :
    (seedNext t e).toNat = if h : e.val + 1 < 32 then (t[e.val + 1]).toNat else 1 := by
  split_ifs with h
  · rw [seedNext_eq_getElem t e h]
  · rw [seedNext_top t e (by omega)]
    rfl

/-- Settles O46: the operand's bucket is the given one, and each block gives the given number. -/
theorem rsqrtGeneralPathInNumbers : Obligations.RsqrtGeneralPathInNumbers := by
  intro x b s e y1 f d y v z hmax hlo hhi hy1 hf hd hy hv hz
  have hdelta : (delta s.cfg.seed e).toNat = d := by
    rw [delta_toNat, seedNext_toNat, seed_eq_getElem, ← hy1, hd]
  have hinterp : (interp s.cfg.seed e x).toNat = y := by
    rw [interp_toNat, hdelta, frac_toNat hlo hhi, ← hf, seed_eq_getElem, hy]
  have hterm : (term (interp s.cfg.seed e x) x).toNat = z := by
    rw [term_toNat, xy2_toNat, square, hinterp, ← hv, hz]
  rw [exec_rsqrt_eq_next, rsqrt_general s.cfg.seed (ne_zero_of_two_pow_le hlo) hmax, bucket_eq_of_mem hlo hhi, newton,
    product, hinterp, hterm]
  rfl

end Sys2Proof.Machine
end

section
/-! SUPPORT. Proofs: RSQRT with the default table. The interpolated seed lies between the entries of its bucket, so
`x y²` lies between 0.5 and 2.25, and from that follow the ranges of the refiner and of the result
(44_newton_refiner.md, 45_reciprocal_sqrt.md). -/

namespace Sys2Proof.Machine

/-- Below the top bucket the default entries differ, and the next one is large enough that every seed above it gives
`x y²` of at least 0.5. -/
theorem default_seedNext_bound : ∀ e : Fin 32, e ≠ 31 → 1 ≤ (delta defaultSeed e).toNat ∧
    2 ^ 31 ≤ 2 ^ e.val * ((seedNext defaultSeed e).toNat + 1) ^ 2 := by decide

/-- Each default entry is small enough that `x y²` stays below 2.25 in its bucket. -/
theorem default_seed_bound :
    ∀ e : Fin 32, 2 ^ (e.val + 1) * (seed defaultSeed e).toNat ^ 2 ≤ 9 * 2 ^ 30 := by decide

theorem default_seed_le_of_ne_zero : ∀ e : Fin 32, e ≠ 0 → seed defaultSeed e ≤ 46341 := by decide

theorem default_seedNext_ne_zero : ∀ e : Fin 32, 1 ≤ (seedNext defaultSeed e).toNat := by decide

theorem default_seedOf_le_seed (x : Word) : (seedOf defaultSeed x).toNat ≤ (seed defaultSeed (bucket x)).toNat :=
  BitVec.le_def.mp (interp_le_seed descends_defaultSeed (bucket x) x)

/-- In the top bucket both reads are 1, and so is the seed (R100). -/
theorem default_seedOf_top {x : Word} (h : bucket x = 31) : seedOf defaultSeed x = 1 := by
  rw [seedOf, h, interp_eq_seed descends_defaultSeed 31 x (.inr (by decide))]
  decide

/-- Below the top bucket the seed is above the next entry. -/
theorem default_seedNext_lt_seedOf {x : Word} (h : bucket x ≠ 31) :
    (seedNext defaultSeed (bucket x)).toNat + 1 ≤ (seedOf defaultSeed x).toNat :=
  seedNext_lt_interp descends_defaultSeed (bucket x) x (default_seedNext_bound (bucket x) h).1

/-- `x y²` is at least 0.5 (R91). -/
theorem default_le_mul_square {x : Word} (hx : x ≠ 0) : 2 ^ 31 ≤ x.toNat * square (seedOf defaultSeed x) := by
  obtain ⟨hlo, -⟩ := two_pow_bucket_le_and_lt hx
  by_cases htop : bucket x = 31
  · rw [htop] at hlo
    rw [default_seedOf_top htop]
    exact hlo.trans_eq (Nat.mul_one _).symm
  · calc 2 ^ 31 ≤ 2 ^ (bucket x).val * ((seedNext defaultSeed (bucket x)).toNat + 1) ^ 2 :=
          (default_seedNext_bound (bucket x) htop).2
      _ ≤ x.toNat * (seedOf defaultSeed x).toNat ^ 2 :=
          Nat.mul_le_mul hlo (Nat.pow_le_pow_left (default_seedNext_lt_seedOf htop) 2)
      _ = x.toNat * square (seedOf defaultSeed x) := by rw [square, sq]

/-- `x y²` is below 2.25 (R91). -/
theorem default_mul_square_lt {x : Word} (hx : x ≠ 0) : x.toNat * square (seedOf defaultSeed x) < 9 * 2 ^ 30 := by
  obtain ⟨hlo, hhi⟩ := two_pow_bucket_le_and_lt hx
  have hpos : 0 < square (seedOf defaultSeed x) :=
    Nat.pos_of_mul_pos_left (Nat.two_pow_pos 31 |>.trans_le (default_le_mul_square hx))
  calc x.toNat * square (seedOf defaultSeed x)
      < 2 ^ ((bucket x).val + 1) * square (seedOf defaultSeed x) := Nat.mul_lt_mul_of_pos_right hhi hpos
    _ ≤ 2 ^ ((bucket x).val + 1) * (seed defaultSeed (bucket x)).toNat ^ 2 := by
        rw [square, ← sq]
        exact Nat.mul_le_mul_left _ (Nat.pow_le_pow_left (default_seedOf_le_seed x) 2)
    _ ≤ 9 * 2 ^ 30 := default_seed_bound (bucket x)

/-- The bounds of `x y²` and of `3 - x y²` in Q16, neither of which wraps (R91). -/
theorem default_xy2_term_bounds {x : Word} (hx : x ≠ 0) :
    32768 ≤ (xy2 (seedOf defaultSeed x) x).toNat ∧ (xy2 (seedOf defaultSeed x) x).toNat ≤ 147455 ∧
    49153 ≤ (term (seedOf defaultSeed x) x).toNat ∧ (term (seedOf defaultSeed x) x).toNat ≤ 163840 := by
  have hlo := default_le_mul_square hx
  have hhi := default_mul_square_lt hx
  rw [term_toNat, xy2_toNat]
  omega

/-- On the top bucket the seed is 1, so `x y²` is the upper half of the word (R100). -/
theorem xy2_one_toNat (x : Word) : (xy2 1 x).toNat = x.toNat / 2 ^ 16 := by
  have hsquare : square 1 = 1 := rfl
  rw [xy2_toNat, hsquare, Nat.mul_one]
  omega

theorem term_one_toNat (x : Word) : (term 1 x).toNat = 0x00030000 - x.toNat / 2 ^ 16 := by
  rw [term_toNat, xy2_one_toNat]
  omega

/-- Only the word 1 is in bucket 0. -/
theorem bucket_ne_zero {x : Word} (hx : x ≠ 0) (h1 : x ≠ 1) : bucket x ≠ 0 := by
  intro h
  obtain ⟨hlo, hhi⟩ := two_pow_bucket_le_and_lt hx
  rw [h] at hlo hhi
  exact h1 (BitVec.eq_of_toNat_eq (Nat.le_antisymm (Nat.le_of_lt_succ hhi) hlo))

/-- The product of the last step is at least half a unit, so the result is not 0. -/
theorem default_le_product {x : Word} (hx : x ≠ 0) : 65536 ≤ product (seedOf defaultSeed x) x := by
  obtain ⟨-, -, hterm, -⟩ := default_xy2_term_bounds hx
  rw [product]
  by_cases htop : bucket x = 31
  · have hone : (1 : Word).toNat = 1 := rfl
    have hlt := x.isLt
    rw [default_seedOf_top htop, term_one_toNat, hone]
    omega
  · have hseed : 2 ≤ (seedOf defaultSeed x).toNat :=
      (Nat.succ_le_succ (default_seedNext_ne_zero _)).trans (default_seedNext_lt_seedOf htop)
    exact (by norm_num : 65536 ≤ 2 * 49153).trans (Nat.mul_le_mul hseed hterm)

/-- Off the word 1 the product stays away from its largest value. -/
theorem default_product_le_of_ne_one {x : Word} (hx : x ≠ 0) (h1 : x ≠ 1) :
    product (seedOf defaultSeed x) x ≤ 46341 * 163840 := by
  obtain ⟨-, -, -, hterm⟩ := default_xy2_term_bounds hx
  have hseed := default_seed_le_of_ne_zero (bucket x) (bucket_ne_zero hx h1)
  exact Nat.mul_le_mul ((default_seedOf_le_seed x).trans (BitVec.le_def.mp hseed)) hterm

theorem default_product_one : product (seedOf defaultSeed 1) 1 = 2 ^ 33 := by decide

theorem default_product_le {x : Word} (hx : x ≠ 0) : product (seedOf defaultSeed x) x ≤ 2 ^ 33 := by
  by_cases h1 : x = 1
  · rw [h1, default_product_one]
  · exact (default_product_le_of_ne_one hx h1).trans (by norm_num)

/-- The refined seed lies in 1 to 65536, and at its upper end for the word 1 only (R91, R98). -/
theorem default_newton_bounds {x : Word} (hx : x ≠ 0) :
    1 ≤ (newton (seedOf defaultSeed x) x).toNat ∧ (newton (seedOf defaultSeed x) x).toNat ≤ 65536 ∧
    ((newton (seedOf defaultSeed x) x).toNat = 65536 ↔ x = 1) := by
  have hlo := default_le_product hx
  have hhi := default_product_le hx
  rw [newton_toNat, ← product]
  refine ⟨by omega, by omega, fun h => ?_, ?_⟩
  · by_contra h1
    have hle := default_product_le_of_ne_one hx h1
    omega
  · rintro rfl
    rw [default_product_one]
    norm_num

/-- Settles O44: the bounds of `x y²` bound the others, and three inputs reach the bounds. -/
theorem defaultRefinerRanges : Obligations.DefaultRefinerRanges := by
  refine ⟨fun x hx _ => ?_, by decide, by decide, default_product_one⟩
  have hxy := default_mul_square_lt hx
  obtain ⟨hxyLo, hxyHi, htermLo, htermHi⟩ := default_xy2_term_bounds hx
  obtain ⟨hlo, hhi, -⟩ := default_newton_bounds hx
  exact ⟨by omega, hxyLo, hxyHi, htermLo, htermHi, default_product_le hx, hlo, hhi⟩

/-- Settles O49: all ones has the result 1, and every other nonzero word its refined seed. -/
theorem defaultResultRange : Obligations.DefaultResultRange := by
  intro x b s hs
  refine ⟨rsqrt defaultSeed x, ?_, ?_, fun hx => ?_⟩
  · rw [exec_rsqrt_eq_next, hs]
    rfl
  · rintro rfl
    exact rsqrt_zero defaultSeed
  · by_cases hmax : x = 0xFFFFFFFF
    · rw [hmax, rsqrt_allOnes]
      decide
    · rw [rsqrt_general defaultSeed hx hmax]
      obtain ⟨hlo, hhi, hiff⟩ := default_newton_bounds hx
      exact ⟨hlo, hhi, (BitVec.toNat_eq (y := (65536 : Word))).trans hiff⟩

/-- With seed 1 a word of the top bucket has the result 1, all ones included (R100). -/
theorem newton_one_of_top {x : Word} (h : 2 ^ 31 ≤ x.toNat) : newton 1 x = 1 := by
  have hone : (1 : Word).toNat = 1 := rfl
  have hx := x.isLt
  apply BitVec.eq_of_toNat_eq
  rw [newton_toNat, term_one_toNat, hone]
  omega

/-- Settles O51: in the top bucket the seed is 1, and the refiner's last step rounds to 1. -/
theorem defaultTopBucket : Obligations.DefaultTopBucket := by
  refine ⟨fun x hlo hhi => ?_, newton_one_of_top (by decide)⟩
  have hlo' : 2 ^ 31 ≤ x.toNat := BitVec.le_def.mp hlo
  have hmax : x ≠ 0xFFFFFFFF := by
    rintro rfl
    exact absurd hhi (by decide)
  have hbucket : bucket x = 31 := bucket_eq_of_mem (e := 31) hlo' x.isLt
  have hseed := default_seedOf_top hbucket
  have hterm := term_one_toNat x
  have hx := x.isLt
  refine ⟨hbucket, hseed, xy2_one_toNat x, by omega, by omega, ?_⟩
  rw [rsqrt_general defaultSeed (ne_zero_of_two_pow_le hlo') hmax, ← seedOf, hseed]
  exact newton_one_of_top hlo'

/-- Settles O50, by evaluating each power. -/
theorem defaultPowersOfTwo : Obligations.DefaultPowersOfTwo := by
  unfold Obligations.DefaultPowersOfTwo
  decide

/-- Settles O52, by evaluating the four words. -/
theorem defaultResultIsNotMonotone : Obligations.DefaultResultIsNotMonotone := by
  unfold Obligations.DefaultResultIsNotMonotone
  decide

end Sys2Proof.Machine
end
